-- ==== Sys2Proof/Word.lean ====
section
/-! DEFINITION. The word types of the machine: data words and bytes, program addresses and program words, accumulators. -/

namespace Sys2Proof

/-- A 16-bit register or data word (R6, R51). -/
abbrev Word := BitVec 16

/-- A byte of data space (R51), or one byte of a stored program word. -/
abbrev Byte := BitVec 8

/-- A program-space address: "at most 24 bits" (R10, 00_scope.md 6.1). -/
abbrev PAddr := BitVec 24

/-- A 24-bit program-memory word (R50, D2). -/
abbrev PWord := BitVec 24

/-- An accumulator: bits 31 and 39 exist, "so at least 40 bits wide" (R31); 40 is notes/assumptions/14. -/
abbrev Acc := BitVec 40

end Sys2Proof
end

