-- ==== Sys2Proof/Config.lean ====
section
/-! DEFINITION. What a device fixes (the parameters of R2 and the configuration fields of R30), as plain data
that State carries and no step changes, and the free values: opaque constants that nothing can evaluate. -/

namespace Sys2Proof

/-- The special function registers that software reaches (the ADDR_* list of R2, and the two page registers of R57).
FALTREG is not among them: it is fixed before the run (R26, N13). -/
inductive Sfr where
  | sr | corcon | intcon1 | intcon2 | intcon3 | intcon4
  | ifs (k : Fin 16) | iec (k : Fin 16) | ipc (k : Fin 62)
  | inttreg | disicnt | splim | rcon | osccon
  | dsrpag | dswpag
  deriving DecidableEq, Repr

/-- An inclusive range of addresses. -/
structure Range where
  lo : Nat
  hi : Nat
  deriving DecidableEq, Repr

/-- Whether an address lies in a range. -/
def Range.has (r : Range) (a : Nat) : Bool := decide (r.lo ≤ a) && decide (a ≤ r.hi)

/-- One nested DO loop's state (R31): its count, and the addresses of its first and last instruction
(notes/assumptions/24). -/
structure DoFrame where
  count : Word
  start : PAddr
  stop : PAddr
  deriving DecidableEq, Repr

/-- The parameters of R2 and the configuration fields of R30. Every claim about all states ranges over all devices. -/
structure Device where
  /-- `ImplementedIrq`: which of the 246 interrupt sources exist. -/
  implIrq : BitVec 246
  /-- `IVT_BASE` (D2). -/
  ivtBase : PAddr
  /-- `VEC_STRIDE` (D2). -/
  vecStride : PAddr
  /-- `HAS_AIVT`. -/
  hasAivt : Bool
  /-- FSEC<15> AIVTDIS (R30). -/
  aivtdis : Bool
  /-- The value of AIVTDIS that enables the AIVT: the polarity is open (C17, D22). -/
  aivtdisEnables : Bool
  /-- BSLIM<12:0>, stored inverted (R30, R63). -/
  bslim : BitVec 13
  /-- `BS_PAGE_SIZE`, in program-address units. -/
  bsPageSize : Nat
  /-- `AIVT_BASE`; none where it is not supplied (D22). -/
  aivtBase : Option PAddr
  /-- `HAS_AUX_FLASH`. -/
  hasAux : Bool
  /-- `AUX_VECTOR_ADDR`. -/
  auxVector : PAddr
  /-- The addresses of Auxiliary Flash, for `InAuxFlash`. -/
  auxFlash : List Range
  /-- The Reset location in Auxiliary Flash, read only where the device has it (R184). -/
  resetPc : PAddr
  /-- `HAS_ALT_WREGS`. -/
  hasAltW : Bool
  /-- `ALT_SET_REGS`: which of W0 to W14 an alternate set replaces (D15). -/
  altRegs : BitVec 15
  /-- FALTREG, as programmed (R26). -/
  faltreg : Word
  /-- `HAS_DSP`. -/
  hasDsp : Bool
  /-- `HAS_DMA`. -/
  hasDma : Bool
  /-- `HAS_USB`. -/
  hasUsb : Bool
  /-- `HAS_USBPLL`. -/
  hasUsbPll : Bool
  /-- `HAS_APLL`. -/
  hasApll : Bool
  /-- `HAS_NVM_AE`. -/
  hasNvmAe : Bool
  /-- `ExtIntIrq(k)` for the `N_EXT_INT` external interrupt pins, pin 0 first. -/
  extIrq : List Nat
  /-- `ADDR_*`: the data-space address of each special function register that has one here. -/
  sfrAddr : List (Sfr × Word)
  /-- The place of OSCCON.CF, which the source does not give (R29). -/
  cfBit : Fin 16
  /-- `ImplData`, special function registers apart. -/
  implData : List Range
  /-- Y data space (R55). -/
  yData : List Range
  /-- `ImplProg`. -/
  implProg : List Range
  /-- Whether `GST_LEVEL` is 8 rather than 9 (C1, D4). -/
  gstIs8 : Bool
  /-- `SKID_MAX`; none is unbounded (D8). -/
  skidMax : Option Nat
  /-- MSTRPR<2:0>, read by timing only (R30, R163). -/
  mstrpr : BitVec 3
  deriving DecidableEq, Repr

/-- Number of trap vectors at the head of the IVT (`N_TRAP_VECTORS`, R2). -/
def numTrapVectors : Nat := 8

/-- Number of interrupt vectors (`N_IRQ_MAX`, R2). -/
def numIrqs : Nat := 246

/-- `STACK_RESET`: W15 after reset and the lower bound of the stack (R2). -/
def stackReset : Word := 0x1000

/-- The device State.reset stands on. R2 leaves every parameter open, and these are the model's choice (PRESUMED, each named in
notes/assumptions/5): every interrupt source, the AIVT, the alternate sets, DSP, DMA, USB, both PLLs and NVM are there, Auxiliary Flash
is not (HAS_AUX_FLASH = false), BS_PAGE_SIZE is 0x800, MSTRPR is 000, all 64 Kbytes of data space are implemented, of program space
0x000000 to 0x7FFFFF and not 0x800000 to 0xFFFFFF, and the configuration words are unprogrammed. -/
def Device.full : Device where
  implIrq := BitVec.allOnes 246
  ivtBase := 0x000004
  vecStride := 2
  hasAivt := true
  aivtdis := true
  aivtdisEnables := false
  bslim := 0x1FFF
  bsPageSize := 0x800
  aivtBase := none
  hasAux := false
  auxVector := 0
  auxFlash := []
  resetPc := 0
  hasAltW := true
  altRegs := 0x7FFF
  faltreg := 0xFFFF
  hasDsp := true
  hasDma := true
  hasUsb := true
  hasUsbPll := true
  hasApll := true
  hasNvmAe := true
  extIrq := [0, 20, 29, 53, 54]
  sfrAddr := []
  cfBit := 3
  implData := [⟨0, 0xFFFF⟩]
  yData := [⟨0x8000, 0xFFFF⟩]
  implProg := [⟨0, 0x7FFFFF⟩]
  gstIs8 := false
  skidMax := some 2
  mstrpr := 0

namespace Config

/-- The value of a result word that the source leaves to `ExecInstr` or calls unspecified (D1). -/
opaque freeWord : Nat → Word

/-- An accumulator left by an instruction whose result the source does not give (D1). -/
opaque freeAcc : Nat → Acc

/-- A choice between two behaviours that the source allows or leaves open (`draw`, 00_scope.md 6.3). -/
opaque freeBool : Nat → Bool

/-- VECNUM after a trap entry (D31). -/
opaque freeVecnum : Nat → Byte

/-- How many instructions may run before one interrupt or soft trap is taken, where `SKID_MAX` is unbounded: every wait is
finite, and no number bounds them all ("the model keeps only fairness", R111). -/
opaque freeSkid : Nat → Nat

/-- How many boundaries still see GIE = 1 after it is cleared: 0, 1 or 2 (R106, D9). -/
opaque gieDelay : Nat → Fin 3

/-- `Cycles` less one: a step takes at least one instruction cycle (D10). -/
opaque extraCycles : Nat → Nat

/-- Data memory that nothing has written since the device reset numbered by the first argument (D24). -/
opaque ramByte : Nat → Nat → Byte

/-- Registers the source leaves unspecified after a device reset (R35, D24), numbered by the second argument. -/
opaque resetWord : Nat → Nat → Word

/-- The accumulators after a device reset (R35). -/
opaque resetAcc : Nat → Nat → Acc

/-- DO stack addresses after a device reset (R35). -/
opaque resetPAddr : Nat → Nat → PAddr

end Config

end Sys2Proof
end

