-- ==== Sys2Proof/Syntax.lean ====
section
/-! DEFINITION. The instructions: one constructor for each row of spec/opcode_table.json (R71). The eight rows with
an encoding carry its fields; the twelve rows without one carry the operands their rule names (R85 to R99). -/

namespace Sys2Proof

/-- A working register number, W0 to W15 (R11; the count is general knowledge, notes/assumptions/6). -/
abbrev WReg := Fin 16

/-- The mode PWRSAV selects (R83). -/
inductive SleepMode where
  | sleep | idle
  deriving DecidableEq, Repr

/-- The two accumulators (R31). -/
inductive AccSel where
  | a | b
  deriving DecidableEq, Repr

/-- A data access is of a byte or of a word (R51). -/
inductive Size where
  | byte | word
  deriving DecidableEq, Repr

/-- SFTAC's shift amount: "a literal value or a value in one of the W registers" (R85). The width of the literal is not in the
source: DESIGN CHOICE, any integer is one, so a literal beyond 16 can trap (notes/assumptions/56). -/
inductive ShiftAmount where
  | lit (k : Int)
  | reg (w : WReg)
  deriving DecidableEq, Repr

/-- An operand that is a register, memory through a W register, or memory through a W register with Paged
Addressing (R93, R57). Which accesses use Paged Addressing is not in the source (N43): DESIGN CHOICE, those whose operand says so,
whatever its address, in bit manipulations, MOV.D, BTSC and BTSS alone (notes/assumptions/55). -/
inductive Operand where
  | direct (w : WReg)
  | indirect (w : WReg)
  | paged (w : WReg)
  deriving DecidableEq, Repr

/-- A double-word operand of MOV.D: a register pair W(2p), W(2p+1), or memory (R94), paged where it says so (as `Operand`,
notes/assumptions/55). -/
inductive DwOperand where
  | pair (p : Fin 8)
  | indirect (w : WReg)
  | paged (w : WReg)
  deriving DecidableEq, Repr

/-- "pushes, pops, calls, returns, link/unlink and moves" through W15 (R99, R71); the returns are RETURN and RETFIE. -/
inductive StackOp where
  | push (src : WReg)
  | pop (dst : WReg)
  | load (size : Size) (disp : Word) (dst : WReg)
  | store (size : Size) (disp : Word) (src : WReg)
  | call (target : BitVec 23)
  | link (lit14 : BitVec 14)
  | unlink
  deriving DecidableEq, Repr

/-- The instructions, in the order of spec/opcode_table.json. -/
inductive Instr where
  | nop
  | disi (lit14 : BitVec 14)
  | retfie
  | ret
  | reset
  | pwrsav (m : SleepMode)
  | goto (target : BitVec 23)
  | bra (slit16 : BitVec 16)
  | sftac (acc : AccSel) (amount : ShiftAmount)
  | div (divisor : WReg) (firstIteration : Bool) (dsts : List WReg)
  | repeatLoop
  | doLoop (count : Word) (stop : PAddr)
  | macClass (acc : AccSel) (x : WReg) (y : WReg) (dsts : List WReg)
  | bitManip (size : Size) (bit : Fin 16) (op : Operand)
  | movD (src : DwOperand) (dst : DwOperand)
  | tblrd (ptr : WReg) (dst : WReg)
  | btsc (bit : Fin 16) (op : Operand)
  | btss (bit : Fin 16) (op : Operand)
  | sfrWrite (reg : Sfr) (mask : Word) (value : Word)
  | w15Access (op : StackOp)
  deriving DecidableEq, Repr

end Sys2Proof
end

