-- ==== Sys2Proof/WellFormed.lean ====
section
/-! DEFINITION. Which instruction terms stand for an instruction. -/

namespace Sys2Proof

/-- A list of destination registers names each register once. -/
def dstsOk (dsts : List WReg) : Bool := decide dsts.Nodup

/-- A bit number lies inside an operand of the given size (R93). -/
def bitOk (size : Size) (bit : Fin 16) : Bool :=
  match size with
  | .byte => decide (bit.val < 8)
  | .word => true

/-- MOV.D moves between two places of which at most one is in memory (R94). -/
def movDOk (src dst : DwOperand) : Bool :=
  match src, dst with
  | .pair _, _ => true
  | _, .pair _ => true
  | _, _ => false

/-- A call goes to an even address, and a stack frame is a number of words (R50, R53). -/
def stackOpOk : StackOp → Bool
  | .push _ => true
  | .pop _ => true
  | .load _ _ _ => true
  | .store _ _ _ => true
  | .call target => !target.getLsbD 0
  | .link lit14 => !lit14.getLsbD 0
  | .unlink => true

/-- Whether a term stands for an instruction: target<0> = 0 (R72), a loop ends at an instruction, lists of
destinations name a register once, a bit lies in its operand, a call goes to an even address. -/
def Instr.wf : Instr → Bool
  | .nop => true
  | .disi _ => true
  | .retfie => true
  | .ret => true
  | .reset => true
  | .pwrsav _ => true
  | .goto target => !target.getLsbD 0
  | .bra _ => true
  | .sftac _ _ => true
  | .div _ _ dsts => dstsOk dsts
  | .repeatLoop => true
  | .doLoop _ stop => !stop.getLsbD 0
  | .macClass _ _ _ dsts => dstsOk dsts
  | .bitManip size bit _ => bitOk size bit
  | .movD src dst => movDOk src dst
  | .tblrd _ _ => true
  | .btsc _ _ => true
  | .btss _ _ => true
  | .sfrWrite _ _ _ => true
  | .w15Access op => stackOpOk op

end Sys2Proof
end

