-- ==== Sys2Proof/Decode.lean ====
section
/-! DEFINITION. The decoder of R72, total on any bytes and refusing by name what R72 has no pattern for (R74), and
the encoder written from the same patterns. A 24-bit word is stored as three bytes, least significant first
(notes/assumptions/3). -/

namespace Sys2Proof

/-- Why a decoder refuses (R74). -/
inductive DecodeError where
  /-- The word matches no row of the opcode table. -/
  | noRule (w : PWord)
  /-- A GOTO whose second word has one of bits 23 to 7 set. -/
  | gotoSecondWord (w : PWord)
  /-- Fewer bytes than the instruction has. -/
  | truncated
  deriving DecidableEq, Repr

/-- A program word from its three bytes, least significant first. -/
def wordOfBytes (b0 b1 b2 : Byte) : PWord := b2 ++ b1 ++ b0

/-- A program word's three bytes, least significant first. -/
def bytesOfWord (w : PWord) : List Byte :=
  [w.extractLsb' 0 8, w.extractLsb' 8 8, w.extractLsb' 16 8]

/-- Whether a word matches a row's mask and match value (R72). -/
def matchesRow (w mask value : PWord) : Bool := w &&& mask == value

/-- Whether a word is the first word of a GOTO, the one two-word instruction (R72). -/
def isGoto (w : PWord) : Bool := matchesRow w 0xFF0001 0x040000

/-- The second word of a GOTO: "bits 6-0 = target<22:16>", the rest 0 (R72). -/
def decodeGoto (w1 w2 : PWord) : Except DecodeError Instr :=
  if matchesRow w2 0xFFFF80 0x000000 then
    .ok (.goto (w2.extractLsb' 0 7 ++ w1.extractLsb' 1 15 ++ 0#1))
  else .error (.gotoSecondWord w2)

/-- The one-word instructions of R72. -/
def decodeOne (w : PWord) : Except DecodeError Instr :=
  if matchesRow w 0xFF0000 0x000000 then .ok .nop
  else if matchesRow w 0xFFC000 0xFC0000 then .ok (.disi (w.extractLsb' 0 14))
  else if matchesRow w 0xFFFFFF 0x064000 then .ok .retfie
  else if matchesRow w 0xFFFFFF 0x060000 then .ok .ret
  else if matchesRow w 0xFFFFFF 0xFE0000 then .ok .reset
  else if matchesRow w 0xFFFFFF 0xFE4000 then .ok (.pwrsav .sleep)
  else if matchesRow w 0xFFFFFF 0xFE4001 then .ok (.pwrsav .idle)
  else if matchesRow w 0xFF0000 0x370000 then .ok (.bra (w.extractLsb' 0 16))
  else .error (.noRule w)

/-- The instruction at the head of a list of bytes, and the bytes after it. -/
def decode : List Byte → Except DecodeError (Instr × List Byte)
  | b0 :: b1 :: b2 :: rest =>
    if isGoto (wordOfBytes b0 b1 b2) then
      match rest with
      | c0 :: c1 :: c2 :: rest' =>
        match decodeGoto (wordOfBytes b0 b1 b2) (wordOfBytes c0 c1 c2) with
        | .ok i => .ok (i, rest')
        | .error e => .error e
      | _ => .error .truncated
    else
      match decodeOne (wordOfBytes b0 b1 b2) with
      | .ok i => .ok (i, rest)
      | .error e => .error e
  | _ => .error .truncated

/-- Bytes `i` to `i + n - 1` of a number, least significant first. -/
def bytesOfNat (x : Nat) : Nat → List Byte
  | 0 => []
  | n + 1 => BitVec.ofNat 8 x :: bytesOfNat (x / 256) n

/-- The six bytes of the longest instruction that hold a table word of `nbits` bits, the bits above it 0. -/
def tableBytes (nbits w : Nat) : List Byte := bytesOfNat (w % 2 ^ nbits) 6

/-- The instruction the decoder reads from an instruction whose bits are `w`. -/
def decodeTableWord (nbits w : Nat) : Option Instr :=
  match decode (tableBytes nbits w) with
  | .ok (i, _) => some i
  | .error _ => none

/-- The words of an instruction (R72); none for the twelve rows the spec gives no encoding. -/
def encode : Instr → Option (List PWord)
  | .nop => some [0x000000]
  | .disi lit14 => some [0b1111110000#10 ++ lit14]
  | .retfie => some [0x064000]
  | .ret => some [0x060000]
  | .reset => some [0xFE0000]
  | .pwrsav .sleep => some [0xFE4000]
  | .pwrsav .idle => some [0xFE4001]
  | .goto target =>
    some [0x04#8 ++ target.extractLsb' 1 15 ++ 0#1, 0#17 ++ target.extractLsb' 16 7]
  | .bra slit16 => some [0x37#8 ++ slit16]
  | .sftac _ _ => none
  | .div _ _ _ => none
  | .repeatLoop => none
  | .doLoop _ _ => none
  | .macClass _ _ _ _ => none
  | .bitManip _ _ _ => none
  | .movD _ _ => none
  | .tblrd _ _ => none
  | .btsc _ _ => none
  | .btss _ _ => none
  | .sfrWrite _ _ _ => none
  | .w15Access _ => none

/-- The bytes of an instruction as program memory holds them. -/
def encodeBytes (i : Instr) : Option (List Byte) := (encode i).map (·.flatMap bytesOfWord)

end Sys2Proof
end

