-- ==== Sys2Proof/Machine/State.lean ====
section
/-! DEFINITION. The state of the machine as plain data, the reasons a step can stop, and the state after reset. -/

namespace Sys2Proof.Machine

open Sys2Proof

/-- Run, Sleep or Idle (R33 (e), R83). -/
inductive Mode where
  | run | sleep | idle
  deriving DecidableEq, Repr

/-- The active working register set (R11, R33 (b)). -/
inductive Ctx where
  | default | alt1 | alt2
  deriving DecidableEq, Repr

/-- What the step in progress has done, as far as its end needs to know: the hard trap conditions newly detected in
it (R127: "Events of one step"), whether it detected a stack error (R147) and whether it loaded DISICNT (R80). The model's own; empty between steps. -/
structure StepLog where
  osc : Bool := false
  addr : Bool := false
  gen : Bool := false
  stk : Bool := false
  disiLoad : Bool := false
  deriving DecidableEq, Repr

/-- What the environment agents can do in a step (R4 (c) to (e), R66, R103, R130, R140 to R146, R152, R181). -/
inductive EnvEvent where
  /-- A source sets its request flag (R103). -/
  | irq (n : Nat)
  /-- The oscillator failure condition (R130). -/
  | oscFail
  /-- A DMA or CPU write collision: the CPU's value stands (R66, R140). -/
  | dmaCollision
  /-- A DMA write of one byte (R66, R144). -/
  | dmaWrite (a : Word) (v : Byte)
  /-- A DMA access to unimplemented memory other than by `dmaWrite` (R144). -/
  | dmaAddrError
  /-- A USB write of one byte (R66, R143). -/
  | usbWrite (a : Word) (v : Byte)
  /-- A USB access to unimplemented memory other than by `usbWrite` (R143). -/
  | usbAddrError
  /-- The NVM address error (R142). -/
  | nvmAddrError
  /-- The USB PLL loses lock (R146). -/
  | usbPllUnlock
  /-- The auxiliary PLL loses lock (R146). -/
  | apllUnlock
  /-- External interrupt pin k takes a level (R152). -/
  | pin (k : Fin 5) (level : Bool)
  /-- A device reset of a cause other than the conflict and the RESET instruction (R181). -/
  | deviceReset
  deriving DecidableEq, Repr

/-- A memory: pairs of an address and a byte. -/
abbrev Memory := List Host.Cell

/-- Why the machine can stop with a fault. -/
inductive Fault where
  /-- Raised by the fetch of Step.lean where the program counter is odd: R50 puts one program word at every even
  address and none at an odd one. Safe: from an even program counter no step makes an odd one. -/
  | oddProgramCounter
  deriving DecidableEq, Repr

/-- Why a step can be refused. Each is raised where the spec itself has the model refuse, and each is safe: the model
stops where hardware goes on in a way the spec does not give. -/
inductive Refusal where
  /-- An instruction whose meaning is not written yet (none is left). -/
  | notModelled (mnemonic : String)
  /-- Raised by the fetch: the word matches no row of the opcode table (R74, D25). -/
  | noRule (w : PWord)
  /-- Raised by the fetch: the second word of a GOTO does not match its pattern (R72, R74). -/
  | gotoSecondWord (w : PWord)
  /-- Raised by the fetch: the symbolic program holds a term that is not well formed. -/
  | illFormed
  /-- Raised by REPEAT: "a model without that manual refuses programs that contain REPEAT" (R87). -/
  | repeatUndefined
  /-- Raised by SFTAC, DO and the MAC class on a device without the DSP engine, which lacks them (R2, R74). -/
  | noDspEngine
  /-- Raised by a software write that would change INTCON2.DISI (R98, D11), and by an entry's frame word that would
(notes/assumptions/58). Safe: the model stops where hardware goes on. -/
  | disiBitWrite
  /-- Raised by a write with Paged Addressing to a page other than 0: the spec does not say where it lands (N43). -/
  | pagedWrite
  /-- Raised by exception entry: the vector word has bit 0 or bit 23 set (R118, D34). -/
  | malformedVector (w : PWord)
  /-- Raised by exception entry where it would interrupt a DO loop in mid-loop: the treatment of
  93_implementation_defined.md section 2 row 21 (R87, N44). -/
  | doInterrupted
  /-- Raised by exception entry: the AIVT is selected and AIVT_BASE is not supplied (93_implementation_defined.md). -/
  | aivtBaseMissing
  /-- Raised by interrupt entry: CTXT1 = CTXT2, a level being assigned (R119, D15). -/
  | contextClash
  /-- Raised by interrupt entry: NSTDIS = 1 with a CTXT field assigned (R119, R194). -/
  | contextNoNesting
  deriving DecidableEq, Repr

/-- The machine. The first group is the spec's state (R10 to R31, R57), the second its hidden state (R33), the third the
model's own (INVENTORY.md). -/
@[ext]
structure State where
  /-- Program counter (R10). -/
  pc : PAddr
  /-- W0 to W14 of the default set (R11). -/
  w : Vector Word 15
  /-- Alternate Working Register Set 1 (R11). -/
  alt1 : Vector Word 15
  /-- Alternate Working Register Set 2 (R11). -/
  alt2 : Vector Word 15
  /-- The Stack Pointer, shared by all sets (R11, D15). -/
  w15 : Word
  /-- CPU STATUS register (R12). -/
  sr : Word
  /-- Core Control register (R13). -/
  corcon : Word
  /-- Interrupt Control Register 1 (R17). -/
  intcon1 : Word
  /-- Interrupt Control Register 2 (R18). -/
  intcon2 : Word
  /-- Interrupt Control Register 3 (R19). -/
  intcon3 : Word
  /-- Interrupt Control Register 4 (R20). -/
  intcon4 : Word
  /-- Interrupt Flag Status registers (R21, R24). -/
  ifs : Vector Word 16
  /-- Interrupt Enable Control registers (R22, R24). -/
  iec : Vector Word 16
  /-- Interrupt Priority Control registers (R23, R24). -/
  ipc : Vector Word 62
  /-- Interrupt Control and Status Register: ILR and VECNUM (R25). -/
  inttreg : Word
  /-- Disable Interrupts Count register (R27). -/
  disicnt : BitVec 14
  /-- Stack Limit register (R28). -/
  splim : Word
  /-- Reset Control register: TRAPR is bit 15 (R29). -/
  rcon : Word
  /-- Oscillator Control register: CF at the device's place for it (R29). -/
  osccon : Word
  /-- Data-space read page register (R57). -/
  dsrpag : Word
  /-- Data-space write page register (R57). -/
  dswpag : Word
  /-- Accumulator A (R31). -/
  accA : Acc
  /-- Accumulator B (R31). -/
  accB : Acc
  /-- The DO stack, addressed by CORCON.DL (R31, R88). -/
  doStack : Vector DoFrame 4
  /-- Data memory that something has written (R51). -/
  ram : Memory
  /-- Program memory as programmed, constant during a run (R50, R68). -/
  prog : Memory
  /-- Device parameters and configuration words (R2, R26, R30). -/
  dev : Device
  /-- `SplimWritten` (R28). -/
  splimWritten : Bool
  /-- `ActiveCtx` (R33 (b)). -/
  activeCtx : Ctx
  /-- `CtxStack` (R33 (b)), innermost entry first. -/
  ctxStack : List Ctx
  /-- `GiePipe` is GIE, or 1 while this count of boundaries is left (R33 (c), R106). -/
  gieLag : Nat
  /-- `Skid` (R33 (d), R111). -/
  skid : Nat
  /-- The bound on `skid` for the wait in progress, drawn when a wait begins (R111). -/
  skidBound : Nat
  /-- `Mode` (R33 (e)). -/
  mode : Mode
  /-- Last sampled level of each external interrupt pin (R33 (f), R152). -/
  pins : Vector Bool 5
  /-- Instructions standing in program memory without an encoding (30_encoding.md section 5). -/
  symbolic : List (PAddr × Instr)
  /-- What the environment does in each step to come. -/
  env : List (List EnvEvent)
  /-- Which device reset the unwritten data memory dates from. -/
  ramSeed : Nat
  /-- The number of the next free value. -/
  free : Nat
  /-- What the step in progress has done. -/
  log : StepLog
  deriving DecidableEq, Repr

/-- The machine after a power-on reset (R35, R180, R182), on the device of notes/assumptions/5. Fields for which R35 states
no value stand at those of notes/assumptions/1. Its environment is an empty script, so that no event comes: DESIGN CHOICE
(notes/assumptions/8). -/
def State.reset : State where
  pc := 0x000000
  w := Vector.replicate 15 0
  alt1 := Vector.replicate 15 0
  alt2 := Vector.replicate 15 0
  w15 := 0x1000
  sr := 0x0000
  corcon := 0x0020
  intcon1 := 0x0000
  intcon2 := 0x8000
  intcon3 := 0x0000
  intcon4 := 0x0000
  ifs := Vector.replicate 16 0x0000
  iec := Vector.replicate 16 0x0000
  ipc := Vector.replicate 62 0x4444
  inttreg := 0x0000
  disicnt := 0
  splim := 0
  rcon := 0
  osccon := 0
  dsrpag := 1
  dswpag := 1
  accA := 0
  accB := 0
  doStack := Vector.replicate 4 ⟨0, 0, 0⟩
  ram := []
  prog := []
  dev := Device.full
  splimWritten := false
  activeCtx := .default
  ctxStack := []
  gieLag := 0
  skid := 0
  skidBound := 0
  mode := .run
  pins := Vector.replicate 5 false
  symbolic := []
  env := []
  ramSeed := 0
  free := 0
  log := {}

end Sys2Proof.Machine
end

