-- ==== Sys2Proof/Machine/Bits.lean ====
section
/-! DEFINITION. Bits, fields and bytes of words, and memories: the plain operations everything else is written with. -/

namespace Sys2Proof.Machine

open Sys2Proof

/-- A word with one bit set to a value. -/
def setBit (r : Word) (i : Nat) (b : Bool) : Word :=
  if b then r ||| (1#16 <<< i) else r &&& ~~~(1#16 <<< i)

/-- A word whose bits in `mask` are taken from `new`. -/
def mergeBits (old new mask : Word) : Word := (old &&& ~~~mask) ||| (new &&& mask)

/-- A software write of `value` to the bits in `mask` of a register whose R/W bits are `rw` and whose R/C bits are
`rc`: an R/W bit takes the value, an R/C bit is cleared by a 0, every other bit is unchanged (R98, R34). -/
def writeBits (old mask value rw rc : Word) : Word :=
  mergeBits old value (mask &&& rw) &&& ~~~(mask &&& rc &&& ~~~value)

/-- `IPL<2:0>` in a status word's bits 7 to 5 (R12). -/
def setIplField (sr : Word) (level : BitVec 3) : Word :=
  mergeBits sr (level.zeroExtend 16 <<< 5) 0x00E0

/-- Bit `n` of a bank of 16-bit registers, 16 to a register (R24). -/
def bankBit (v : Vector Word 16) (n : Nat) : Bool :=
  if h : n / 16 < 16 then v[n / 16].getLsbD (n % 16) else false

/-- A bank of 16-bit registers with bit `n` set (R24). -/
def bankSet (v : Vector Word 16) (n : Nat) : Vector Word 16 :=
  if h : n / 16 < 16 then v.set (n / 16) (setBit v[n / 16] (n % 16) true) else v

/-- The low byte of a word is at the even address (R52, D18). -/
def lowByte (v : Word) : Byte := v.extractLsb' 0 8

/-- The high byte of a word is at the odd address (R52, D18). -/
def highByte (v : Word) : Byte := v.extractLsb' 8 8

/-- The byte a memory lists at an address. -/
def Memory.get : Memory → Nat → Option Byte
  | [], _ => none
  | (k, v) :: m, a => if k = a then some v else Memory.get m a

/-- A memory with a byte written. `unlisted` is what an unlisted address reads as, if it is one fixed byte: writing
that byte removes the entry. -/
def Memory.set (unlisted : Option Byte) : Memory → Nat → Byte → Memory
  | [], a, v => if unlisted = some v then [] else [(a, v)]
  | (k, w) :: m, a, v =>
    if a < k then (if unlisted = some v then (k, w) :: m else (a, v) :: (k, w) :: m)
    else if a = k then (if unlisted = some v then m else (a, v) :: m)
    else (k, w) :: Memory.set unlisted m a v

/-- The canonical form of a memory: addresses strictly rising, no entry equal to what an unlisted address reads as. -/
def Memory.wf (unlisted : Option Byte) : Memory → Bool
  | [] => true
  | (k, v) :: m => decide (unlisted ≠ some v) && m.all (fun c => decide (k < c.1)) && Memory.wf unlisted m

/-- An unwritten data byte holds no value: what it reads as is a free value (D24, notes/assumptions/2). -/
def ramUnlisted : Option Byte := none

/-- An unlisted byte of program memory is erased Flash, as in "the erased value 0xFFFFFF" (R118). -/
def progUnlisted : Option Byte := some 0xFF

end Sys2Proof.Machine
end

