-- ==== Sys2Proof/Machine/Flags.lean ====
section
/-! DEFINITION. The fields of the status and control registers, the CPU priority (R14), trap requests (R101, R102), the
access types of every register (R12, R13, R17 to R25, R98) and every flag a rule sets. -/

namespace Sys2Proof

/-! ### What a device has -/

/-- FALTREG as it reads: bits 15-7 and bit 3 are 1 (R26, R34). -/
def Device.faltregRead (d : Device) : Word := d.faltreg ||| 0xFF88

/-- FALTREG.CTXT1 (R26). -/
def Device.ctxt1 (d : Device) : BitVec 3 := d.faltreg.extractLsb' 0 3

/-- FALTREG.CTXT2 (R26). -/
def Device.ctxt2 (d : Device) : BitVec 3 := d.faltreg.extractLsb' 4 3

/-- `GST_LEVEL` (R2, D4). -/
def Device.gstLevel (d : Device) : Nat := if d.gstIs8 then 8 else 9

/-- The bits of INTCON1 a device has (R17; 93_implementation_defined.md section 1 row 6). -/
def Device.intcon1Bits (d : Device) : Word :=
  0x805E ||| (if d.hasDsp then 0x7F80 else 0) ||| (if d.hasDma then 0x0020 else 0)

/-- The bits of INTCON3 a device has (R19). -/
def Device.intcon3Bits (d : Device) : Word :=
  (if d.hasNvmAe then 0x0100 else 0) ||| (if d.hasUsb then 0x0040 else 0) ||| (if d.hasDma then 0x0020 else 0)
  ||| (if d.hasDsp then 0x0010 else 0) ||| (if d.hasUsbPll then 0x0004 else 0) ||| (if d.hasApll then 0x0001 else 0)

/-- The bits of IFSx and IECx whose sources a device has (R24). -/
def Device.flagBits (d : Device) (k : Nat) : Word := d.implIrq.extractLsb' (16 * k) 16

/-- The bits of IPCx whose sources a device has: bit 3 of each nibble is unimplemented (R23, R24). -/
def Device.priorityBits (d : Device) (k : Nat) : Word :=
  (if d.implIrq.getLsbD (4 * k) then 0x0007 else 0) ||| (if d.implIrq.getLsbD (4 * k + 1) then 0x0070 else 0)
  ||| (if d.implIrq.getLsbD (4 * k + 2) then 0x0700 else 0) ||| (if d.implIrq.getLsbD (4 * k + 3) then 0x7000 else 0)

end Sys2Proof

namespace Sys2Proof.Machine

open Sys2Proof

/-! ### Fields -/

/-- SR.IPL<2:0> (R12). -/
def State.ipl (s : State) : BitVec 3 := s.sr.extractLsb' 5 3

/-- CORCON.IPL3 (R13). -/
def State.ipl3 (s : State) : Bool := s.corcon.getLsbD 3

/-- CORCON.SFA (R13). -/
def State.sfa (s : State) : Bool := s.corcon.getLsbD 2

/-- CORCON.DL<2:0> (R13, R88). -/
def State.dl (s : State) : BitVec 3 := s.corcon.extractLsb' 8 3

/-- `CPUIPL = CORCON.IPL3 : SR.IPL<2:0>` (R14). -/
def State.cpuIpl (s : State) : Nat := (if s.ipl3 then 8 else 0) + s.ipl.toNat

/-- INTCON1.NSTDIS (R17). -/
def State.nstdis (s : State) : Bool := s.intcon1.getLsbD 15

/-- INTCON2.GIE (R18). -/
def State.gie (s : State) : Bool := s.intcon2.getLsbD 15

/-- INTCON2.DISI (R18). -/
def State.disi (s : State) : Bool := s.intcon2.getLsbD 14

/-- INTCON2.SWTRAP (R18). -/
def State.swtrap (s : State) : Bool := s.intcon2.getLsbD 13

/-- INTCON2.AIVTEN (R18). -/
def State.aivten (s : State) : Bool := s.intcon2.getLsbD 8

/-- `GiePipe`, the value of GIE as the controller sees it (R33 (c), R106). -/
def State.giePipe (s : State) : Bool := s.gie || decide (0 < s.gieLag)

/-- `EffIPL` (R106). -/
def State.effIpl (s : State) : Nat := if s.giePipe then s.cpuIpl else max s.cpuIpl 7

/-- INTTREG.ILR (R25). -/
def State.ilr (s : State) : BitVec 4 := s.inttreg.extractLsb' 8 4

/-- INTTREG.VECNUM (R25). -/
def State.vecnum (s : State) : Byte := s.inttreg.extractLsb' 0 8

/-- RCON.TRAPR (R29). -/
def State.trapr (s : State) : Bool := s.rcon.getLsbD 15

/-- OSCCON.CF (R29). -/
def State.clockFail (s : State) : Bool := s.osccon.getLsbD s.dev.cfBit

/-! ### Interrupt sources -/

/-- Whether the device has interrupt source n (R2, R24). -/
def State.implemented (s : State) (n : Nat) : Bool := s.dev.implIrq.getLsbD n

/-- `IFS[n]` (R24). -/
def State.ifsBit (s : State) (n : Nat) : Bool := bankBit s.ifs n

/-- `IEC[n]` (R24). -/
def State.iecBit (s : State) (n : Nat) : Bool := bankBit s.iec n

/-- `IPC[n]` (R24). -/
def State.ipcOf (s : State) (n : Nat) : BitVec 3 :=
  if h : n / 4 < 62 then s.ipc[n / 4].extractLsb' (4 * (n % 4)) 3 else 0

/-- The request flag of source n set, where the device has the source (R103, R24). -/
def State.setIfs (s : State) (n : Nat) : State :=
  if s.implemented n then { s with ifs := bankSet s.ifs n } else s

/-! ### Traps -/

/-- The trap sources in vector-number order (R101). -/
inductive Trap where
  | oscillator | address | genericHard | stack | math | dmac | genericSoft
  deriving DecidableEq, Repr

/-- All trap sources, highest level first (R101). -/
def Trap.all : List Trap := [.oscillator, .address, .genericHard, .stack, .math, .dmac, .genericSoft]

/-- Vector number of a trap (R101, D3). -/
def Trap.vector : Trap → Nat
  | .oscillator => 0
  | .address => 1
  | .genericHard => 2
  | .stack => 3
  | .math => 4
  | .dmac => 5
  | .genericSoft => 6

/-- Priority level of a trap (R101). -/
def Trap.level (d : Device) : Trap → Nat
  | .oscillator => 15
  | .address => 14
  | .genericHard => 13
  | .stack => 12
  | .math => 11
  | .dmac => 10
  | .genericSoft => d.gstLevel

/-- Whether a trap is hard (R101). -/
def Trap.hard : Trap → Bool
  | .oscillator => true
  | .address => true
  | .genericHard => true
  | .stack => false
  | .math => false
  | .dmac => false
  | .genericSoft => false

/-- The request of a trap: the level of its status flag (R101, R102). -/
def State.trapRequest (s : State) : Trap → Bool
  | .oscillator => s.intcon1.getLsbD 1
  | .address => s.intcon1.getLsbD 3
  | .genericHard => s.intcon4 != 0
  | .stack => s.intcon1.getLsbD 2
  | .math => s.intcon1.getLsbD 4
  | .dmac => s.intcon1.getLsbD 5
  | .genericSoft => s.intcon3 != 0

/-! ### Flags that hardware sets -/

/-- Bits of INTCON1 set by hardware (R17). -/
def State.orIntcon1 (s : State) (m : Word) : State := { s with intcon1 := s.intcon1 ||| m }

/-- Bits of INTCON3 set by hardware (R19). -/
def State.orIntcon3 (s : State) (m : Word) : State := { s with intcon3 := s.intcon3 ||| m }

/-- `raise StackError`: STKERR (R133), which the step's log has (R147). -/
def State.stackError (s : State) : State :=
  { s with intcon1 := s.intcon1 ||| 0x0004, log := { s.log with stk := true } }

/-- SFTACERR and MATHERR (R138). -/
def State.shiftError (s : State) : State := s.orIntcon1 0x0090

/-- DIV0ERR and MATHERR (R137). -/
def State.divideError (s : State) : State := s.orIntcon1 0x0050

/-- DMACERR (R140). -/
def State.dmacError (s : State) : State := s.orIntcon1 0x0020

/-- DOOVR (R145). -/
def State.doOverflow (s : State) : State := s.orIntcon3 0x0010

/-- A hard trap condition (R101). -/
inductive HardTrap where
  | osc | addr | gen
  deriving DecidableEq, Repr

/-- A hard trap condition is newly detected: its status flags are set (R130 to R132) and the step's log has it. -/
def State.raiseHard (t : HardTrap) (s : State) : State :=
  match t with
  | .osc =>
    { s with
      intcon1 := s.intcon1 ||| 0x0002
      osccon := setBit s.osccon s.dev.cfBit true
      log := { s.log with osc := true } }
  | .addr => { s with intcon1 := s.intcon1 ||| 0x0008, log := { s.log with addr := true } }
  | .gen => { s with intcon4 := s.intcon4 ||| 0x0001, log := { s.log with gen := true } }

/-- Whether a hard trap condition detected in this step at CPU priority `ipl` conflicts (R127, D13): the CPU is at
its level or above, or a hard trap of a higher level is requested. -/
def State.hardConflict (ipl : Nat) (s : State) : Bool :=
  (s.log.osc && decide (15 ≤ ipl))
  || (s.log.addr && (decide (14 ≤ ipl) || s.trapRequest .oscillator))
  || (s.log.gen && (decide (13 ≤ ipl) || s.trapRequest .oscillator || s.trapRequest .address))

/-- The bits of INTCON1 whose conditions the step has detected. -/
def StepLog.intcon1Bits (l : StepLog) : Word :=
  (if l.osc then 0x0002 else 0) ||| (if l.addr then 0x0008 else 0) ||| (if l.stk then 0x0004 else 0)

/-- "Every condition detected in one step sets its flag; none is lost" (R147): where a write of the same step cleared the flag
again, "the set wins" (D30). -/
def State.reassert (s : State) : State :=
  { s with
    intcon1 := s.intcon1 ||| s.log.intcon1Bits
    intcon4 := s.intcon4 ||| (if s.log.gen then 0x0001 else 0) }

/-- `MathCauseActive` (R139, D29). -/
def State.mathCauseActive (s : State) : Bool :=
  (s.intcon1.getLsbD 10 && s.sr.getLsbD 15) || (s.intcon1.getLsbD 9 && s.sr.getLsbD 14)

/-- Saturation mode of an accumulator (R31, R135, R136). -/
inductive Saturation where
  | none | bits31 | bits39
  deriving DecidableEq, Repr

/-- The saturation mode that CORCON sets: SATA or SATB enables it, ACCSAT selects 31 or 39 bits (R13, notes/assumptions/16). -/
def State.saturation (s : State) (acc : AccSel) : Saturation :=
  let enabled := match acc with
    | .a => s.corcon.getLsbD 7
    | .b => s.corcon.getLsbD 6
  if enabled then (if s.corcon.getLsbD 4 then .bits39 else .bits31) else .none

/-- An overflow event of an accumulator: its SR bit, and with its enable its cause flag and MATHERR (R135). -/
def State.overflow (acc : AccSel) (s : State) : State :=
  match acc with
  | .a =>
    { s with
      sr := s.sr ||| 0x8000
      intcon1 := if s.intcon1.getLsbD 10 then s.intcon1 ||| 0x4010 else s.intcon1 }
  | .b =>
    { s with
      sr := s.sr ||| 0x4000
      intcon1 := if s.intcon1.getLsbD 9 then s.intcon1 ||| 0x2010 else s.intcon1 }

/-- A catastrophic overflow event: with COVTE its cause flag and MATHERR (R136). -/
def State.catastrophic (acc : AccSel) (s : State) : State :=
  if s.intcon1.getLsbD 8 then s.orIntcon1 (match acc with | .a => 0x1010 | .b => 0x0810) else s

/-! ### Access types -/

/-- R/W bits of SR: C, Z, OV, N, and IPL<2:0> unless NSTDIS = 1 (R12, R15). -/
def State.srRw (s : State) : Word := if s.nstdis then 0x000F else 0x00EF

/-- R/C bits of SR: SA, SB, SAB (R12). -/
def srRc : Word := 0x3400

/-- R/W bits of CORCON (R13). -/
def corconRw : Word := 0xB8F3

/-- R/C bits of CORCON: IPL3 (R13, R16). -/
def corconRc : Word := 0x0008

/-- R/W bits of INTCON2 other than DISI: GIE, SWTRAP, AIVTEN, INT4EP to INT0EP (R18). -/
def intcon2Rw : Word := 0xA11F

end Sys2Proof.Machine
end

