-- ==== Sys2Proof/Machine/Ops.lean ====
section
/-! DEFINITION. The named operations: outcomes in sequence, draws, device reset, registers, special function registers,
data memory, the stack, taking an exception and returning from one. -/

namespace Sys2Proof

/-! ### What a device's parameters say (R2) -/

/-- `ImplData(a)`. -/
def Device.dataAt (d : Device) (a : Nat) : Bool := d.implData.any (·.has a)

/-- Whether an address lies in Y data space (R55). -/
def Device.inY (d : Device) (a : Nat) : Bool := d.yData.any (·.has a)

/-- `ImplProg(a)`. The second half of the Boot Segment's last page, "no longer usable space" while the AIVT is enabled (R63, R197), is
as `ImplProg` says: DESIGN CHOICE (notes/assumptions/57). -/
def Device.progAt (d : Device) (a : PAddr) : Bool := d.implProg.any (·.has a.toNat)

/-- `InAuxFlash(pc)`. -/
def Device.inAuxFlash (d : Device) (a : PAddr) : Bool := d.auxFlash.any (·.has a.toNat)

/-- The special function register at an even data-space address (`ADDR_*`). -/
def Device.sfrAt (d : Device) (a : Word) : Option Sfr :=
  (d.sfrAddr.find? (fun e => e.2 == (a &&& 0xFFFE))).map (·.1)

/-- Whether a data-space byte exists: data memory or a special function register (R51, R55). -/
def Device.byteAt (d : Device) (a : Word) : Bool := d.dataAt a.toNat || (d.sfrAt a).isSome

/-- `N_BS = (~BSLIM<12:0>) & 0x1FFF`, the number of Boot Segment pages (R63). -/
def Device.bootPages (d : Device) : Nat := (~~~d.bslim).toNat

/-- `AivtConfigEnabled`: a Boot Segment of at least 2 pages, and AIVTDIS at its enabling value (R2, R63, D22). -/
def Device.aivtConfigEnabled (d : Device) : Bool := decide (2 ≤ d.bootPages) && (d.aivtdis == d.aivtdisEnables)

/-- Where R63 puts the AIVT if the Boot Segment starts at 0: a premise the spec does not make, so `AIVT_BASE` stays a
parameter and no step uses this. -/
def Device.aivtBaseOfPages (d : Device) : Nat := (d.bootPages - 1) * d.bsPageSize + d.ivtBase.toNat

/-- Where a device reset leaves the PC: "0x000000 unless HAS_AUX_FLASH and a parameter says otherwise" (R184). -/
def Device.resetAddr (d : Device) : PAddr := if d.hasAux then d.resetPc else 0x000000

end Sys2Proof

namespace Sys2Proof.Machine

open Sys2Proof

/-- The outcome of a step of this machine. -/
abbrev Result := Host.Outcome State Fault Refusal

/-- One operation after another; a fault or a refusal ends the sequence. -/
def andThen (r : Result) (f : State → Result) : Result :=
  match r with
  | .next s => f s
  | .fault e => .fault e
  | .refused e => .refused e

/-! ### Draws -/

/-- The next free value is used up (`draw`, 00_scope.md 6.3). -/
def State.draw (s : State) : State := { s with free := s.free + 1 }

/-- An instruction begins: its log is empty. -/
def State.fresh (s : State) : State := { s with log := {} }

/-- The program counter moves to an address (R10). -/
def State.setPc (s : State) (a : PAddr) : State := { s with pc := a }

/-- The program counter moves past one instruction word (D2). -/
def State.advance (s : State) : State := s.setPc (s.pc + 2)

/-- SR bits outside IPL<2:0> become free: an instruction whose effect on them is `ExecInstr` (D1, notes/assumptions/15). -/
def State.execFlags (s : State) : State :=
  { s with sr := mergeBits s.sr (Config.freeWord s.free) 0xFF1F, free := s.free + 1 }

/-! ### Device reset -/

/-- Why the device resets (R181). -/
inductive ResetCause where
  | trapConflict | software | other
  deriving DecidableEq, Repr

/-- `DeviceReset(cause)` (R180, R181): every register and hidden variable takes its reset value (R35), program memory,
configuration, environment and pin levels stay, and what R35 leaves unspecified is free. TRAPR is 1 after a trap
conflict; "RCON.TRAPR is not set by" RESET (R82), which leaves it or clears it; after another cause it is free (D24). DSRPAG
and DSWPAG, of whose reset value the spec says nothing, become the family's 1 as in `State.reset` (notes/assumptions/31).
Data memory is free anew, at every reset (notes/assumptions/2). -/
def State.deviceReset (cause : ResetCause) (s : State) : State :=
  { State.reset with
    pc := s.dev.resetAddr
    w := Vector.ofFn (fun i => Config.resetWord s.free i.val)
    alt1 := Vector.ofFn (fun i => Config.resetWord s.free (15 + i.val))
    alt2 := Vector.ofFn (fun i => Config.resetWord s.free (30 + i.val))
    splim := Config.resetWord s.free 45
    rcon :=
      match cause with
      | .trapConflict => setBit (Config.resetWord s.free 46) 15 true
      | .software =>
        setBit (Config.resetWord s.free 46) 15 (s.rcon.getLsbD 15 && (Config.resetWord s.free 46).getLsbD 15)
      | .other => Config.resetWord s.free 46
    osccon := Config.resetWord s.free 47
    accA := Config.resetAcc s.free 0
    accB := Config.resetAcc s.free 1
    doStack := Vector.ofFn (fun i => ⟨Config.resetWord s.free (50 + i.val), Config.resetPAddr s.free (2 * i.val),
      Config.resetPAddr s.free (2 * i.val + 1)⟩)
    prog := s.prog
    symbolic := s.symbolic
    dev := s.dev
    env := s.env
    pins := s.pins
    ramSeed := s.free + 1
    free := s.free + 1 }

/-- The end of an instruction or an entry begun at CPU priority `ipl`: every condition it detected has its flag (R147), and a hard
trap conflict resets the device (R127). -/
def State.settle (ipl : Nat) (s : State) : State :=
  if s.reassert.hardConflict ipl then s.deviceReset .trapConflict else s.reassert

/-! ### Working registers -/

/-- The set that holds W0 to W14's register `i`: an alternate set where it is active and replaces that register (R11,
R119, D15). -/
def State.bankOf (s : State) (i : Nat) : Ctx :=
  if s.dev.hasAltW && s.dev.altRegs.getLsbD i then s.activeCtx else .default

/-- `W[i]` (00_scope.md 6.3). -/
def State.readW (s : State) (i : WReg) : Word :=
  if h : i.val < 15 then
    match s.bankOf i.val with
    | .default => s.w[i.val]
    | .alt1 => s.alt1[i.val]
    | .alt2 => s.alt2[i.val]
  else s.w15

/-- `W[i] <- v` (00_scope.md 6.3). -/
def State.writeW (s : State) (i : WReg) (v : Word) : State :=
  if h : i.val < 15 then
    match s.bankOf i.val with
    | .default => { s with w := s.w.set i.val v }
    | .alt1 => { s with alt1 := s.alt1.set i.val v }
    | .alt2 => { s with alt2 := s.alt2.set i.val v }
  else { s with w15 := v }

/-- Registers left with free values by `ExecInstr` (D1). -/
def State.freeRegs (s : State) : List WReg → State
  | [] => s
  | i :: is => (s.writeW i (Config.freeWord s.free)).draw.freeRegs is

/-- An accumulator (R31). -/
def State.setAcc (s : State) (acc : AccSel) (v : Acc) : State :=
  match acc with
  | .a => { s with accA := v }
  | .b => { s with accB := v }

/-! ### Special function registers -/

/-- `SFRREAD`: what software reads; it has no side effect (R58). Unimplemented positions read 0 (R24, R34). -/
def State.readSfr (s : State) : Sfr → Word
  | .sr => s.sr
  | .corcon => s.corcon
  | .intcon1 => s.intcon1
  | .intcon2 => s.intcon2
  | .intcon3 => s.intcon3
  | .intcon4 => s.intcon4
  | .ifs k => s.ifs[k] &&& s.dev.flagBits k
  | .iec k => s.iec[k] &&& s.dev.flagBits k
  | .ipc k => s.ipc[k] &&& s.dev.priorityBits k
  | .inttreg => s.inttreg
  | .disicnt => s.disicnt.zeroExtend 16
  | .splim => s.splim
  | .rcon => s.rcon
  | .osccon => s.osccon
  | .dsrpag => s.dsrpag
  | .dswpag => s.dswpag

/-- A write of SR: IPL<2:0> is read-only while NSTDIS = 1 (R12, R15). -/
def State.writeSr (mask value : Word) (s : State) : State :=
  { s with sr := writeBits s.sr mask value s.srRw srRc }

/-- A write of CORCON: IPL3 can be cleared and not set (R13, R16). -/
def State.writeCorcon (mask value : Word) (s : State) : State :=
  { s with corcon := writeBits s.corcon mask value corconRw corconRc }

/-- A write of INTCON1 (R17). A 0 to MATHERR is ignored while its cause is active (R139). A 1 written over a 0 in
OSCFAIL or ADDRERR is a hard trap event (R102, R127, D28). -/
def State.writeIntcon1 (mask value : Word) (s : State) : State :=
  let value := if s.mathCauseActive then value ||| (s.intcon1 &&& 0x0010) else value
  let v := writeBits s.intcon1 mask value s.dev.intcon1Bits 0
  { s with
    intcon1 := v
    log := { s.log with
      osc := s.log.osc || (v.getLsbD 1 && !s.intcon1.getLsbD 1)
      addr := s.log.addr || (v.getLsbD 3 && !s.intcon1.getLsbD 3) } }

/-- The flags of the external interrupts whose polarity bit a write changes, each set or not by a draw (R152, D32). -/
def State.polarityFlags (changed drawn : Word) (s : State) : List Nat → Nat → State
  | [], _ => s
  | n :: ns, k =>
    (if changed.getLsbD k && drawn.getLsbD k then s.setIfs n else s).polarityFlags changed drawn ns (k + 1)

/-- GIE changes from one value to another: how many boundaries still see 1 (R106, D9). -/
def gieLagAfter (old new : Bool) (lag : Nat) (n : Nat) : Nat :=
  if new then 0 else if old then (Config.gieDelay n).val else lag

/-- A write of INTCON2 (R18) that leaves DISI as it is: SWTRAP from 0 to 1 sets SGHT and is a hard trap event (R132), GIE
cleared is seen late (R106), a changed polarity bit may set its pin's flag (R152). -/
def State.writeIntcon2 (mask value : Word) (s : State) : State :=
  let v := writeBits s.intcon2 mask value intcon2Rw 0
  let s1 := { s with
    intcon2 := v
    gieLag := gieLagAfter (s.intcon2.getLsbD 15) (v.getLsbD 15) s.gieLag s.free
    free := s.free + 1 }
  let s2 := if v.getLsbD 13 && !s.intcon2.getLsbD 13 then s1.raiseHard .gen else s1
  let changed := (v ^^^ s.intcon2) &&& 0x001F
  if changed = 0 then s2 else s2.draw.polarityFlags changed (Config.freeWord s2.free) s2.dev.extIrq 0

/-- A write of INTCON4: a 1 written over a 0 in SGHT is a hard trap event (R20, R132). -/
def State.writeIntcon4 (mask value : Word) (s : State) : State :=
  let v := writeBits s.intcon4 mask value 0x0001 0
  { s with intcon4 := v, log := { s.log with gen := s.log.gen || (v.getLsbD 0 && !s.intcon4.getLsbD 0) } }

/-- A write of DISICNT (R80 (c), (d), D11): while DISI = 1 the count takes the value and 0 ends the disable; while
DISI = 0 nothing is disabled and the count is free. -/
def State.writeDisicnt (mask value : Word) (s : State) : State :=
  if mask &&& 0x3FFF = 0 then s
  else if s.disi then
    let v := (writeBits (s.disicnt.zeroExtend 16) mask value 0x3FFF 0).extractLsb' 0 14
    { s with
      disicnt := v
      intcon2 := if v = 0 then setBit s.intcon2 14 false else s.intcon2
      log := { s.log with disiLoad := true } }
  else { s with disicnt := (Config.freeWord s.free).extractLsb' 0 14, free := s.free + 1 }

/-- A write of SPLIM (R28): "a word is written", all 16 bits, enables the overflow check; a write of a byte or of some bits does not
(notes/assumptions/29). -/
def State.writeSplim (mask value : Word) (s : State) : State :=
  { s with splim := mergeBits s.splim value mask, splimWritten := s.splimWritten || mask == 0xFFFF }

/-- A write of RCON: TRAPR takes the value (R181); its other bits are not in the source, and those written are free. -/
def State.writeRcon (mask value : Word) (s : State) : State :=
  { s with
    rcon := mergeBits (mergeBits s.rcon value (mask &&& 0x8000)) (Config.freeWord s.free) (mask &&& 0x7FFF)
    free := s.free + 1 }

/-- A write of OSCCON: the access types of its bits are not in the source, and those written are free (R29). -/
def State.writeOsccon (mask : Word) (s : State) : State :=
  { s with osccon := mergeBits s.osccon (Config.freeWord s.free) mask, free := s.free + 1 }

/-- A software write of the bits of a special function register in `mask`, by access type and with its side effects
(R98). A write that would change INTCON2.DISI is refused (D11). -/
def State.writeSfr (r : Sfr) (mask value : Word) (s : State) : Result :=
  match r with
  | .sr => .next (s.writeSr mask value)
  | .corcon => .next (s.writeCorcon mask value)
  | .intcon1 => .next (s.writeIntcon1 mask value)
  | .intcon2 =>
    if mask.getLsbD 14 && (value.getLsbD 14 != s.disi) then .refused .disiBitWrite
    else .next (s.writeIntcon2 mask value)
  | .intcon3 => .next { s with intcon3 := writeBits s.intcon3 mask value s.dev.intcon3Bits 0 }
  | .intcon4 => .next (s.writeIntcon4 mask value)
  | .ifs k => .next { s with ifs := s.ifs.set k.val (writeBits s.ifs[k.val] mask value (s.dev.flagBits k.val) 0) }
  | .iec k => .next { s with iec := s.iec.set k.val (writeBits s.iec[k.val] mask value (s.dev.flagBits k.val) 0) }
  | .ipc k => .next { s with ipc := s.ipc.set k.val (writeBits s.ipc[k.val] mask value (s.dev.priorityBits k.val) 0) }
  | .inttreg => .next s
  | .disicnt => .next (s.writeDisicnt mask value)
  | .splim => .next (s.writeSplim mask value)
  | .rcon => .next (s.writeRcon mask value)
  | .osccon => .next (s.writeOsccon mask)
  | .dsrpag => .next { s with dsrpag := mergeBits s.dsrpag value mask }
  | .dswpag => .next { s with dswpag := mergeBits s.dswpag value mask }

/-! ### Data memory -/

/-- A byte of data memory; one that nothing has written is free (D24). -/
def State.ramByte (s : State) (a : Word) : Byte :=
  (Memory.get s.ram a.toNat).getD (Config.ramByte s.ramSeed a.toNat)

/-- A byte of data memory written. -/
def State.setRamByte (s : State) (a : Word) (v : Byte) : State :=
  { s with ram := Memory.set ramUnlisted s.ram a.toNat v }

/-- A word of data memory, little-endian (R52). -/
def State.ramWord (s : State) (a : Word) : Word := s.ramByte (a + 1) ++ s.ramByte a

/-- A word of data memory written, little-endian (R52). -/
def State.setRamWord (s : State) (a : Word) (v : Word) : State :=
  (s.setRamByte a (lowByte v)).setRamByte (a + 1) (highByte v)

/-- Whether an access raises the address error condition: a misaligned word (R53) or an unimplemented address (R55). -/
def State.badAccess (s : State) (size : Size) (a : Word) : Bool :=
  match size with
  | .byte => !s.dev.byteAt a
  | .word => a.getLsbD 0 || !s.dev.byteAt a || !s.dev.byteAt (a + 1)

/-- `MemRead(a, 2)` where the access is good: a special function register or data memory. -/
def State.loadWord (s : State) (a : Word) : Word :=
  match s.dev.sfrAt a with
  | some r => s.readSfr r
  | none => s.ramWord a

/-- `MemRead(a, 1)` where the access is good. -/
def State.loadByte (s : State) (a : Word) : Byte :=
  match s.dev.sfrAt a with
  | some r => if a.getLsbD 0 then highByte (s.readSfr r) else lowByte (s.readSfr r)
  | none => s.ramByte a

/-- `MemWrite(a, 2, v)` where the access is good: a write of a special function register is a software write (R98). -/
def State.storeWord (a : Word) (v : Word) (s : State) : Result :=
  match s.dev.sfrAt a with
  | some r => s.writeSfr r 0xFFFF v
  | none => .next (s.setRamWord a v)

/-- `MemWrite(a, 1, v)` where the access is good. -/
def State.storeByte (a : Word) (v : Byte) (s : State) : Result :=
  match s.dev.sfrAt a with
  | some r =>
    if a.getLsbD 0 then s.writeSfr r 0xFF00 (v ++ 0#8) else s.writeSfr r 0x00FF (v.zeroExtend 16)
  | none => .next (s.setRamByte a v)

/-! ### The stack -/

/-- The overflow and wrap checks on an effective address made from W15 (R99, R133). -/
def State.stackCheck (ea : Word) (carry : Bool) (s : State) : State :=
  if (s.splimWritten && decide (s.splim < ea)) || carry then s.stackError else s

/-- The underflow check on the value left in W15 (R99, R133, D17). -/
def State.underflowCheck (s : State) : State := if s.w15 < 0x1000 then s.stackError else s

/-- The underflow check after an instruction: made where it used W15 as a pointer (R99) or changed it from `old` (R133). -/
def State.underflowAfter (used : Bool) (old : Word) (s : State) : State :=
  if used = false ∧ s.w15 = old then s else s.underflowCheck

/-- The write of `Push16(v)`: a bad access raises the address error and writes nothing (R53, R59). A word of an exception entry that
lands on a special function register is a software write of it, as an instruction's is (R98): DESIGN CHOICE
(notes/assumptions/58). -/
def State.pushStore (v : Word) (s : State) : Result :=
  if s.badAccess .word s.w15 then .next (s.raiseHard .addr) else s.storeWord s.w15 v

/-- `Push16(v)`: write the word at W15, then W15 + 2, with the stack checks (R60, R133, D16). -/
def State.push16 (v : Word) (s : State) : Result :=
  andThen ((s.stackCheck s.w15 false).pushStore v) fun t => .next { t with w15 := t.w15 + 2 }

/-- Two words pushed by one instruction: where either access raises the address error, "data space writes are inhibited" (R59,
R114) and neither is written, and W15 and the stack checks are as otherwise. -/
def State.pushPair (lo hi : Word) (s : State) : Result :=
  if s.badAccess .word s.w15 || s.badAccess .word (s.w15 + 2) then
    .next { ((s.stackCheck s.w15 false).stackCheck (s.w15 + 2) false).raiseHard .addr with w15 := s.w15 + 4 }
  else andThen (s.push16 lo) fun t => t.push16 hi

/-- The state after `Pop16()`: W15 - 2, with the stack checks and the address error of a bad access (R60, R133). -/
def State.pop16 (s : State) : State :=
  let s1 := { s with w15 := s.w15 - 2 }.stackCheck (s.w15 - 2) false
  if s.badAccess .word (s.w15 - 2) then (s1.raiseHard .addr).draw else s1

/-- The word that `Pop16()` reads; what a bad access returns is free (R53). -/
def State.popValue (s : State) : Word :=
  if s.badAccess .word (s.w15 - 2) then Config.freeWord s.free else s.loadWord (s.w15 - 2)

/-! ### Program memory -/

/-- A byte of program memory, erased where nothing is programmed. Byte `k` of the word at program address `p` is at
`2 * p + k` (notes/assumptions/3). -/
def State.progByte (s : State) (a : Nat) : Byte := (Memory.get s.prog a).getD (progUnlisted.getD 0)

/-- `ProgRead24(p)` (R64): what program memory holds at `p`, erased where nothing is programmed, and no address error where `p`
is unimplemented or odd: DESIGN CHOICE (notes/assumptions/59). -/
def State.progWord (s : State) (p : PAddr) : PWord :=
  wordOfBytes (s.progByte (2 * p.toNat)) (s.progByte (2 * p.toNat + 1)) (s.progByte (2 * p.toNat + 2))

/-! ### Taking an exception -/

/-- An exception is a trap or an interrupt (R100). -/
inductive Exc where
  | trap (t : Trap)
  | irq (n : Nat)
  deriving DecidableEq, Repr

/-- Vector number (R100, R101). -/
def Exc.vector : Exc → Nat
  | .trap t => t.vector
  | .irq n => n + numTrapVectors

/-- Priority level (R101, R104). -/
def Exc.level (s : State) : Exc → Nat
  | .trap t => t.level s.dev
  | .irq n => (s.ipcOf n).toNat

/-- Frame word 0: PC<15:1> : SFA (R61). -/
def State.frame0 (s : State) : Word := s.pc.extractLsb' 1 15 ++ BitVec.ofBool s.sfa

/-- Frame word 1: SRL : IPL3 : PC<22:16> (R61). -/
def State.frame1 (s : State) : Word := s.sr.extractLsb' 0 8 ++ BitVec.ofBool s.ipl3 ++ s.pc.extractLsb' 16 7

/-- The new priority (R117): an interrupt of level `level` writes it to IPL<2:0>, or 7 if nesting is disabled; a trap sets
IPL3 as well. -/
def State.enterPriority (e : Exc) (level : Nat) (s : State) : State :=
  match e with
  | .irq _ => { s with sr := setIplField s.sr (if s.nstdis then 7 else BitVec.ofNat 3 level) }
  | .trap _ =>
    { s with
      sr := setIplField s.sr (BitVec.ofNat 3 (level - 8))
      corcon := setBit s.corcon 3 true }

/-- INTTREG is latched (R120): ILR is the source's level, VECNUM the interrupt's number, free after a trap (D31). -/
def State.latch (e : Exc) (level : Nat) (s : State) : State :=
  match e with
  | .irq n => { s with inttreg := 0#4 ++ BitVec.ofNat 4 level ++ BitVec.ofNat 8 n }
  | .trap _ => { s with inttreg := 0#4 ++ BitVec.ofNat 4 level ++ Config.freeVecnum s.free, free := s.free + 1 }

/-- The set whose CTXT field codes level `level`: an assigned level L is coded L - 1, and 111 is no level (R26, R119). -/
def ctxFor (d : Device) (level : Nat) : Option Ctx :=
  if d.ctxt1 ≠ 7 ∧ d.ctxt1.toNat + 1 = level then some .alt1
  else if d.ctxt2 ≠ 7 ∧ d.ctxt2.toNat + 1 = level then some .alt2
  else none

/-- The working register set is selected (R119, D15). -/
def State.selectCtx (e : Exc) (level : Nat) (s : State) : State :=
  if s.dev.hasAltW then
    { s with
      ctxStack := s.activeCtx :: s.ctxStack
      activeCtx :=
        match e with
        | .trap _ => s.activeCtx
        | .irq _ => (ctxFor s.dev level).getD s.activeCtx }
  else s

/-- The configurations of the alternate sets that the model refuses at interrupt entry (R119, R194, D15). -/
def State.ctxRefusal (e : Exc) (s : State) : Option Refusal :=
  match e with
  | .trap _ => none
  | .irq _ =>
    if s.dev.hasAltW && (s.dev.ctxt1 == s.dev.ctxt2) && (s.dev.ctxt1 != 7) then some .contextClash
    else if s.dev.hasAltW && s.nstdis && ((s.dev.ctxt1 != 7) || (s.dev.ctxt2 != 7)) then some .contextNoNesting
    else none

/-- Whether an entry would interrupt a DO loop in mid-loop (93_implementation_defined.md section 2 row 21): the nesting level is
not 0. The trap of a DO stack overflow is requested with DL = 100, and the spec has it taken (R88, R145, R112). -/
def State.interruptsDo (e : Exc) (s : State) : Bool :=
  s.dl != 0 &&
    match e with
    | .trap t => !(decide (t = .genericSoft) && s.intcon3.getLsbD 4)
    | .irq _ => true

/-- The entries that the model refuses before anything is stacked, the vector's own refusals apart. -/
def State.entryRefusal (e : Exc) (s : State) : Option Refusal :=
  if s.interruptsDo e then some .doInterrupted else s.ctxRefusal e

/-- `VectorAddress(v)` (R118, R65); none where the AIVT is selected and has no base. -/
def State.vectorAddress (v : Nat) (s : State) : Option PAddr :=
  if s.dev.hasAux && s.dev.inAuxFlash s.pc then some s.dev.auxVector
  else if s.dev.hasAivt && s.dev.aivtConfigEnabled && s.aivten then
    s.dev.aivtBase.map (· + s.dev.vecStride * BitVec.ofNat 24 v)
  else some (s.dev.ivtBase + s.dev.vecStride * BitVec.ofNat 24 v)

/-- The address of the service routine, or why entry is refused (R118, R119, D15, D34, 93_implementation_defined.md row 21). A
vector location that is itself unimplemented or odd is read as it stands, with no address error: DESIGN CHOICE
(notes/assumptions/59). -/
def State.handler (e : Exc) (s : State) : Except Refusal PAddr :=
  match s.entryRefusal e with
  | some r => .error r
  | none =>
    match s.vectorAddress e.vector with
    | none => .error .aivtBaseMissing
    | some a =>
      if (s.progWord a).getLsbD 0 || (s.progWord a).getLsbD 23 then .error (.malformedVector (s.progWord a))
      else .ok (s.progWord a)

/-- What entry at level `level` does once the frame is stacked, control going to `target` (R115 to R120, D33). -/
def State.enterAfterPush (e : Exc) (level : Nat) (target : PAddr) (s : State) : State :=
  let s1 := { s with corcon := setBit s.corcon 2 false }
  let s2 := ((s1.enterPriority e level).latch e level).selectCtx e level
  { s2.underflowCheck with pc := target, skid := 0, mode := .run }

/-- `TakeException(e)` (R115): both frame words are pushed, then SFA, priority, INTTREG, register set and PC are written.
No request and no other register changes (R121). -/
def State.takeException (e : Exc) (s0 : State) : Result :=
  let s := s0.fresh
  match s.handler e with
  | .error r => .refused r
  | .ok target =>
    andThen (s.push16 s.frame0) fun t1 =>
      andThen (t1.push16 s.frame1) fun t2 =>
        .next ((t2.enterAfterPush e (e.level s) target).settle s.cpuIpl)

/-- The set in use before the entry is in use again (R81, R119). -/
def State.restoreCtx (s : State) : State :=
  if s.dev.hasAltW then
    match s.ctxStack with
    | [] => s
    | c :: cs => { s with activeCtx := c, ctxStack := cs }
  else s

/-- The PC that two popped frame words hold: w1<6:0> : w0<15:1> : 0 (R81, R91). -/
def framePc (w0 w1 : Word) : PAddr := 0#1 ++ w1.extractLsb' 0 7 ++ w0.extractLsb' 1 15 ++ 0#1

/-- The registers that the return from an exception restores from the two frame words (R81). -/
def State.unstack (w0 w1 : Word) (s : State) : State :=
  { s with
    sr := mergeBits s.sr (w1 >>> 8) 0x00FF
    corcon := setBit (setBit s.corcon 3 (w1.getLsbD 7)) 2 (w0.getLsbD 0)
    pc := framePc w0 w1 }

/-- The return from an exception, `RETFIE` (R81, R122): two pops, then SRL, IPL3, SFA, PC and the register set. -/
def State.exceptionReturn (s0 : State) : State :=
  let s := s0.fresh
  let t := s.pop16
  (((t.pop16.unstack t.popValue s.popValue).restoreCtx).underflowCheck).settle s.cpuIpl

end Sys2Proof.Machine
end

