-- ==== Sys2Proof/Machine/Operands.lean ====
section
/-! DEFINITION. The operand forms: shift amounts, memory through a W register, Paged Addressing, bits of an operand and
double words, each with the checks its rule gives (R53 to R57, R93, R99). -/

namespace Sys2Proof.Machine

open Sys2Proof

/-- The value of a shift amount, signed (R85). -/
def State.shiftAmount (s : State) : ShiftAmount → Int
  | .lit k => k
  | .reg w => (s.readW w).toInt

/-- The checks on an effective address made from a W register: those of R99 where the register is W15. -/
def State.pointerCheck (ptr : WReg) (ea : Word) (carry : Bool) (s : State) : State :=
  if ptr.val = 15 then s.stackCheck ea carry else s

/-- The stack checks of an operand that is addressed through a W register (R99). -/
def State.operandCheck (op : Operand) (s : State) : State :=
  match op with
  | .direct _ => s
  | .indirect w => s.pointerCheck w (s.readW w) false
  | .paged w => s.pointerCheck w (s.readW w) false

/-- Whether an operand is addressed through W15 (R99). -/
def Operand.usesW15 : Operand → Bool
  | .direct _ => false
  | .indirect w => w.val == 15
  | .paged w => w.val == 15

/-- "Indirect Addressing mode with the LSb of the Effective Address set to '1'" (R54, R93). -/
def State.oddIndirect (op : Operand) (s : State) : Bool :=
  match op with
  | .direct _ => false
  | .indirect w => (s.readW w).getLsbD 0
  | .paged w => (s.readW w).getLsbD 0

/-- Whether reading an operand raises the address error condition (R53, R55, R57); in a page, whose implemented addresses the
spec does not give, only a misaligned word and page 0 do (notes/assumptions/31). -/
def State.badRead (size : Size) (op : Operand) (s : State) : Bool :=
  match op with
  | .direct _ => false
  | .indirect w => s.badAccess size (s.readW w)
  | .paged w => s.dsrpag == 0 || (decide (size = .word) && (s.readW w).getLsbD 0)

/-- The bit of an operand that a bit test reads; free where the operand cannot be read or is in a page, whose contents the
spec does not give (N43). -/
def State.operandBit (bit : Fin 16) (op : Operand) (s : State) : Bool :=
  match op with
  | .direct w => (s.readW w).getLsbD bit.val
  | .indirect w =>
    if s.badAccess .word (s.readW w) then Config.freeBool s.free else (s.loadWord (s.readW w)).getLsbD bit.val
  | .paged _ => Config.freeBool s.free

/-- The address of the byte of a word operand that holds a bit (R52). -/
def bitByteAddr (ea : Word) (bit : Fin 16) : Word := if bit.val < 8 then ea else ea + 1

/-- One bit of the byte or word at an even address written (R93); of a special function register, a write of that bit
(R98). -/
def State.storeBit (ea : Word) (bit : Fin 16) (b : Bool) (s : State) : Result :=
  match s.dev.sfrAt ea with
  | some r => s.writeSfr r (setBit 0 bit.val true) (setBit 0 bit.val b)
  | none =>
    .next (s.setRamByte (bitByteAddr ea bit)
      (lowByte (setBit ((s.ramByte (bitByteAddr ea bit)).zeroExtend 16) (bit.val % 8) b)))

/-- The register pair of a double word: W(2p) and W(2p+1) (R94). -/
def pairLow (p : Fin 8) : WReg := ⟨2 * p.val, by omega⟩

/-- The upper register of a pair. -/
def pairHigh (p : Fin 8) : WReg := ⟨2 * p.val + 1, by omega⟩

/-- Whether a double-word operand is addressed through W15 (R99). -/
def DwOperand.usesW15 : DwOperand → Bool
  | .pair _ => false
  | .indirect w => w.val == 15
  | .paged w => w.val == 15

/-- The stack checks of the two accesses of a double-word operand (R99). -/
def State.dwCheck (op : DwOperand) (s : State) : State :=
  match op with
  | .pair _ => s
  | .indirect w =>
    (s.pointerCheck w (s.readW w) false).pointerCheck w (s.readW w + 2) (decide (0xFFFF < (s.readW w).toNat + 2))
  | .paged w =>
    (s.pointerCheck w (s.readW w) false).pointerCheck w (s.readW w + 2) (decide (0xFFFF < (s.readW w).toNat + 2))

/-- Whether one of the two word accesses of a double-word operand raises the address error condition, `page` being the page
register of its direction (R94, R53, R55, R57). -/
def State.dwBad (op : DwOperand) (page : Word) (s : State) : Bool :=
  match op with
  | .pair _ => false
  | .indirect w => s.badAccess .word (s.readW w) || s.badAccess .word (s.readW w + 2)
  | .paged w => page == 0 || (s.readW w).getLsbD 0

/-- The low and high word of a double-word operand; free where it cannot be read or is in a page (R53, N43). -/
def State.dwValue (op : DwOperand) (s : State) : Word × Word :=
  match op with
  | .pair p => (s.readW (pairLow p), s.readW (pairHigh p))
  | .indirect w =>
    if s.dwBad op s.dsrpag then (Config.freeWord s.free, Config.freeWord (s.free + 1))
    else (s.loadWord (s.readW w), s.loadWord (s.readW w + 2))
  | .paged _ => (Config.freeWord s.free, Config.freeWord (s.free + 1))

/-- The effective address of a move through W15 with a signed displacement (R99). -/
def State.stackEa (s : State) (disp : Word) : Word := s.w15 + disp

/-- "the EA calculation wraps over the end of data space (0xFFFF)" (R99). -/
def State.stackCarry (s : State) (disp : Word) : Bool := decide (0xFFFF < (s.w15.toNat : Int) + disp.toInt)

end Sys2Proof.Machine
end

