-- ==== Sys2Proof/Machine/Control.lean ====
section
/-! DEFINITION. Control transfers and loops: GOTO, BRA, RETURN, REPEAT, DO, BTSC, BTSS. -/

namespace Sys2Proof.Machine

open Sys2Proof

/-- Control goes to a target; an unimplemented one raises the address error condition at once (R56, R89, R90). -/
def State.transfer (target : PAddr) (s0 : State) : State :=
  let s := s0.fresh
  ((if s.dev.progAt target then s else s.raiseHard .addr).setPc target).settle s.cpuIpl

/-- Target of a BRA: pc + 2 + 2 * sext(slit16) (R72). -/
def braTarget (pc : PAddr) (slit16 : BitVec 16) : PAddr := pc + 2 + (slit16.signExtend 24 <<< 1)

/-- BRA (R89). -/
def execBra (slit16 : BitVec 16) (s : State) : Result := .next (s.transfer (braTarget s.pc slit16))

/-- GOTO (R90). -/
def execGoto (target : BitVec 23) (s : State) : Result := .next (s.transfer (target.zeroExtend 24))

/-- RETURN pops the two words of a frame into the PC; whether SFA is restored too is free (R91). -/
def execRet (s0 : State) : Result :=
  let s := s0.fresh
  let t := s.pop16
  let u := t.pop16
  let w0 := t.popValue
  .next (({ u with
      corcon := setBit u.corcon 2 (if Config.freeBool u.free then w0.getLsbD 0 else u.sfa)
      pc := framePc w0 s.popValue
      free := u.free + 1 }).underflowCheck.settle s.cpuIpl)

/-- REPEAT: the source defines no operand, no count and no effect, and the spec has a model without the CPU manual refuse
it (R87). -/
def execRepeatLoop (_s : State) : Result := .refused .repeatUndefined

/-- CORCON.DL<2:0> written by hardware (R88). -/
def State.setDl (v : BitVec 3) (s : State) : State :=
  { s with corcon := mergeBits s.corcon (v.zeroExtend 16 <<< 8) 0x0700 }

/-- A DO loop is pushed on the DO stack and the nesting level rises (R88). A level above 4, which no run reaches, becomes
free. -/
def State.pushLoop (count : Word) (stop : PAddr) (s : State) : State :=
  if h : s.dl.toNat < 4 then
    { s with doStack := s.doStack.set s.dl.toNat ⟨count, s.pc + 2, stop⟩ }.setDl (s.dl + 1)
  else { s with free := s.free + 1 }.setDl ((Config.freeWord s.free).extractLsb' 0 3)

/-- DO: on a full DO stack DOOVR and no DO state changed; else one level more, and SR.DA and the other SR bits outside IPL are
`ExecInstr` (R88, D1, notes/assumptions/24). -/
def execDoLoop (count : Word) (stop : PAddr) (s : State) : Result :=
  if !s.dev.hasDsp then .refused .noDspEngine
  else if s.dl = 4 then .next s.doOverflow.advance
  else .next (s.pushLoop count stop).execFlags.advance

/-- The end of a DO loop's body: after the instruction at the innermost loop's last address has run on to the next one,
the loop goes round again or ends, which of the two being left to `ExecInstr` (R88, D1), and so is SR.DA after it; SR's other bits are
as that instruction left them: DESIGN CHOICE (notes/assumptions/24). -/
def State.loopEnd (at_ : PAddr) (s : State) : State :=
  if h : 0 < s.dl.toNat ∧ s.dl.toNat ≤ 4 then
    if s.doStack[s.dl.toNat - 1].stop = at_ ∧ s.pc = at_ + 2 then
      let t := { s with sr := setBit s.sr 9 (Config.freeBool (s.free + 1)), free := s.free + 2 }
      if Config.freeBool s.free then t.setPc s.doStack[s.dl.toNat - 1].start else t.setDl (s.dl - 1)
    else s
  else s

/-- The instruction standing without an encoding at an address. -/
def State.symbolicAt (s : State) (a : PAddr) : Option Instr := (s.symbolic.find? (fun e => e.1 == a)).map (·.2)

/-- The address after the instruction at an address: a GOTO is two words long (R72). A skipped word is not executed and is never
refused: by its first word alone it is a GOTO of two words, whatever the second holds, and any other word, one of no row of
R72 included, is one word: DESIGN CHOICE (notes/assumptions/35). -/
def State.afterInstr (s : State) (a : PAddr) : PAddr :=
  if (s.symbolicAt a).isNone && isGoto (s.progWord a) then a + 4 else a + 2

/-- The next instruction is skipped; while a request waits it counts as an executed one (R96, D8), see `State.unlessPastLimit`. -/
def State.skipNext (s : State) : State :=
  { s with pc := s.afterInstr (s.pc + 2), skid := if 0 < s.skid then s.skid + 1 else 0 }

/-- A bit test that skips when the bit is `want` (R96): with an odd indirect address only the address error (R93); otherwise
the test, on a free bit where the operand cannot be read. -/
def State.testSkip (want : Bool) (bit : Fin 16) (op : Operand) (s0 : State) : State :=
  let s := s0.fresh
  let s1 := s.operandCheck op
  if s.oddIndirect op then (((s1.raiseHard .addr).advance).underflowAfter (Operand.usesW15 op) s.w15).settle s.cpuIpl
  else
    let s2 := (if s.badRead .word op then s1.raiseHard .addr else s1).draw.execFlags
    ((if s.operandBit bit op = want then s2.skipNext else s2.advance).underflowAfter (Operand.usesW15 op) s.w15).settle s.cpuIpl

/-- BTSC: bit test, skip if clear (R96). -/
def execBtsc (bit : Fin 16) (op : Operand) (s : State) : Result := .next (s.testSkip false bit op)

/-- BTSS: bit test, skip if set (R97). -/
def execBtss (bit : Fin 16) (op : Operand) (s : State) : Result := .next (s.testSkip true bit op)

end Sys2Proof.Machine
end

