-- ==== Sys2Proof/Machine/Boundary.lean ====
section
/-! DEFINITION. What happens at the boundary between two instructions: arbitration (R105 to R110), when an exception is
taken (R111 to R113), waking (R150), the counts that run from step to step (R80, R106), and the environment (R103). -/

namespace Sys2Proof.Machine

open Sys2Proof

/-! ### Arbitration -/

/-- `TrapDeliverable(t)` (R105, R109). -/
def State.trapDeliverable (s : State) (t : Trap) : Bool := s.trapRequest t && decide (s.cpuIpl < t.level s.dev)

/-- `IrqDeliverable(n)` (R107, R109). -/
def State.irqDeliverable (s : State) (n : Nat) : Bool :=
  s.implemented n && s.ifsBit n && s.iecBit n && decide (s.effIpl < (s.ipcOf n).toNat)
  && !(s.disi && decide ((s.ipcOf n).toNat ≤ 6))

/-- The deliverable trap of highest level (R109). -/
def State.trapWinner (s : State) : Option Trap := Trap.all.find? s.trapDeliverable

/-- Of the deliverable interrupts below number `bound`, the one of highest level, and of those the lowest number (R109,
R110). -/
def State.bestIrq (s : State) : Nat → Option Nat
  | 0 => none
  | n + 1 =>
    if s.irqDeliverable n then
      match s.bestIrq n with
      | none => some n
      | some m => if (s.ipcOf m).toNat < (s.ipcOf n).toNat then some n else some m
    else s.bestIrq n

/-- `Winner` (R109). -/
def State.winner (s : State) : Option Exc :=
  match s.trapWinner with
  | some t => some (.trap t)
  | none => (s.bestIrq numIrqs).map .irq

/-- Whether an exception is a hard trap (R101, R113). -/
def Exc.hard : Exc → Bool
  | .trap t => t.hard
  | .irq _ => false

/-- The most instructions that may run before the interrupt or soft trap that waits is taken (R111): `SKID_MAX`, or where that is
unbounded a number drawn when the wait begins, so that a continuously deliverable request is eventually taken. -/
def State.skidLimit (s : State) : Nat :=
  match s.dev.skidMax with
  | some m => m
  | none => if s.skid = 0 then Config.freeSkid s.free else s.skidBound

/-- Whether one more instruction may run before an interrupt or soft trap is taken (R111). -/
def State.maySkid (s : State) : Bool := decide (s.skid < s.skidLimit)

/-- Whether one more instruction runs first: allowed, and so drawn (R111, D8). -/
def State.defers (s : State) : Bool := s.maySkid && Config.freeBool s.free

/-- The request waits for one instruction more, which is counted (R111). -/
def State.waiting (s : State) : State := { s.draw with skid := s.skid + 1, skidBound := s.skidLimit }

/-- What the instruction does that would run while exception `e` waits: its outcome, but where it skips another and the two
together go past the bound, `e` is taken before it ("An instruction skipped by a skip instruction counts as one", D8). -/
def State.unlessPastLimit (e : Exc) (s : State) (r : Result) : Result :=
  andThen r fun t => if t.skid ≤ s.skidLimit then .next t else s.draw.takeException e

/-! ### Sleep and Idle -/

/-- Whether an interrupt source wakes the CPU: enabled, requested, of level 1 or above (R150, R151). -/
def State.irqWakes (s : State) (n : Nat) : Bool :=
  s.implemented n && s.ifsBit n && s.iecBit n && decide (1 ≤ (s.ipcOf n).toNat)

/-- Whether a source below number `bound` wakes the CPU. -/
def State.anyWakes (s : State) : Nat → Bool
  | 0 => false
  | n + 1 => s.irqWakes n || s.anyWakes n

/-- Sleep or Idle ends when an interrupt source wakes the CPU or a trap is deliverable (R150, D26). -/
def State.wake (s : State) : State :=
  if s.mode ≠ .run ∧ (s.trapWinner.isSome || s.anyWakes numIrqs) = true then { s with mode := .run } else s

/-! ### Counts -/

/-- A boundary has been sampled: one less still sees a cleared GIE as 1 (R106). -/
def State.tickGie (s : State) : State := { s with gieLag := s.gieLag - 1 }

/-- The end of a step of the CPU: DISICNT goes down by the cycles the step took, at least one, and at zero the disable ends
(R80, D10). The step that loads DISICNT is not counted. -/
def State.tickDisi (s : State) : State :=
  if s.disi && !s.log.disiLoad then
    let left := s.disicnt.toNat - (1 + Config.extraCycles s.free)
    { s with
      disicnt := BitVec.ofNat 14 left
      intcon2 := if left = 0 then setBit s.intcon2 14 false else s.intcon2
      free := s.free + 1 }
  else s

/-! ### The environment -/

/-- A byte written by a bus agent, which reaches data memory only; `flag` is the agent's address error (R66). -/
def State.agentWrite (a : Word) (v : Byte) (flag : Word) (s : State) : State :=
  if (s.dev.sfrAt a).isSome then s
  else if s.dev.dataAt a.toNat then s.setRamByte a v
  else s.orIntcon3 flag

/-- Pin k goes from one level to another: the edge its polarity bit selects sets its flag, and the level is sampled (R152). -/
def State.pinEdge (k : Fin 5) (level : Bool) (s : State) : State :=
  let s1 := { s with pins := s.pins.set k.val level }
  if s.pins[k.val] != level && (level != s.intcon2.getLsbD k.val) then
    match s.dev.extIrq[k.val]? with
    | some n => s1.setIfs n
    | none => s1
  else s1

/-- One event of the environment (R103, R130, R140 to R146, R152). An oscillator failure in a step that newly detected a
lower hard trap condition, or at CPU priority 15, is a hard trap conflict (R127). -/
def State.event (e : EnvEvent) (s : State) : State :=
  match e with
  | .irq n => s.setIfs n
  | .oscFail => (s.raiseHard .osc).settle s.cpuIpl
  | .dmaCollision => if s.dev.hasDma then s.dmacError else s
  | .dmaWrite a v => if s.dev.hasDma then s.agentWrite a v 0x0020 else s
  | .dmaAddrError => if s.dev.hasDma then s.orIntcon3 0x0020 else s
  | .usbWrite a v => if s.dev.hasUsb then s.agentWrite a v 0x0040 else s
  | .usbAddrError => if s.dev.hasUsb then s.orIntcon3 0x0040 else s
  | .nvmAddrError => if s.dev.hasNvmAe then s.orIntcon3 0x0100 else s
  | .usbPllUnlock => if s.dev.hasUsbPll then s.orIntcon3 0x0004 else s
  | .apllUnlock => if s.dev.hasApll then s.orIntcon3 0x0001 else s
  | .pin k level => s.pinEdge k level
  | .deviceReset => s.deviceReset .other

/-- The events of one step in their order. -/
def State.events (s : State) : List EnvEvent → State
  | [] => s
  | e :: es => (s.event e).events es

/-- The environment acts at the end of a step, so that its flag sets win over software's clears in that step (D30); then the
step's log is closed. -/
def State.environment (s : State) : State :=
  (({ s with env := s.env.tail }).events (s.env.headD [])).fresh

end Sys2Proof.Machine
end

