-- ==== Sys2Proof/Machine/Arithmetic.lean ====
section
/-! DEFINITION. The math error sources: SFTAC, the divide instruction, the MAC class (R85, R86, R92). -/

namespace Sys2Proof.Machine

open Sys2Proof

/-- SFTAC: beyond 16 bits either way the shift error, and the accumulator is not written; else the shift, whose result is
`ExecInstr` (R85, R138). -/
def execSftac (acc : AccSel) (amount : ShiftAmount) (s : State) : Result :=
  if !s.dev.hasDsp then .refused .noDspEngine
  else if 16 < s.shiftAmount amount ∨ s.shiftAmount amount < -16 then .next s.shiftError.advance
  else .next (s.setAcc acc (Config.freeAcc s.free)).draw.execFlags.advance

/-- The divide instruction: the divide-by-zero check of the first iteration, and destinations that are `ExecInstr` (R86,
R137). -/
def execDiv (divisor : WReg) (firstIteration : Bool) (dsts : List WReg) (s0 : State) : Result :=
  let s := s0.fresh
  let s1 := if firstIteration && (s.readW divisor == 0) then s.divideError else s
  .next (((s1.freeRegs dsts).execFlags.advance).underflowAfter false s.w15)

/-- The accumulator result of the MAC class and its overflow events: a carry out of bit 31 without 31-bit saturation, a carry
out of bit 39 without saturation (R92, R135, R136). The result and the carries are `ExecInstr`. -/
def State.macResult (acc : AccSel) (s : State) : State :=
  let t := (s.setAcc acc (Config.freeAcc s.free)).draw.execFlags
  let u := if (s.saturation acc != .bits31) && Config.freeBool t.free then t.overflow acc else t
  let v := if (s.saturation acc == .none) && Config.freeBool (t.free + 1) then u.catastrophic acc else u
  v.draw.draw

/-- Whether the X fetch of the MAC class raises the address error condition: Y space is unimplemented to it (R92, R55). R58 leaves
the width of the fetches open: DESIGN CHOICE, both are of a word, so that an odd pointer raises it too (notes/assumptions/27). -/
def State.badX (s : State) (a : Word) : Bool := s.badAccess .word a || s.dev.inY a.toNat

/-- Whether the Y fetch of the MAC class, a word as `State.badX` has it, raises the address error condition: X space is
unimplemented to it (R92, R55). -/
def State.badY (s : State) (a : Word) : Bool := s.badAccess .word a || !s.dev.inY a.toNat

/-- The MAC class: two fetches with their checks, the accumulator and its events, and whatever registers the form also
writes (R92). -/
def execMacClass (acc : AccSel) (x y : WReg) (dsts : List WReg) (s0 : State) : Result :=
  if !s0.dev.hasDsp then .refused .noDspEngine
  else
    let s := s0.fresh
    let s1 := (s.pointerCheck x (s.readW x) false).pointerCheck y (s.readW y) false
    let s2 := if s.badX (s.readW x) || s.badY (s.readW y) then s1.raiseHard .addr else s1
    .next ((((s2.macResult acc).freeRegs dsts).advance.underflowAfter (x.val == 15 || y.val == 15) s.w15).settle s.cpuIpl)

end Sys2Proof.Machine
end

