-- ==== Sys2Proof/Machine/Data.lean ====
section
/-! DEFINITION. The data accesses: bit manipulation, MOV.D, TBLRDx, writes of special function registers, accesses through
W15 (R93 to R95, R98, R99). -/

namespace Sys2Proof.Machine

open Sys2Proof

/-- The end of a data access begun in state `s`, which used W15 as a pointer or not: the PC moves on, a used or moved W15 is
checked, a conflict resets (R99, R127, R133, R147). -/
def State.finish (used : Bool) (s : State) (t : State) : State :=
  (t.advance.underflowAfter used s.w15).settle s.cpuIpl

/-- A bit manipulation instruction (R93): an odd indirect address raises the address error and nothing else happens;
otherwise its bit of the operand is written with a value that is `ExecInstr`, in a special function register by a software write
(R98). An operand that cannot be accessed is not
written (R59). -/
def execBitManip (size : Size) (bit : Fin 16) (op : Operand) (s0 : State) : Result :=
  let s := s0.fresh
  let s1 := s.operandCheck op
  let used := Operand.usesW15 op
  if s.oddIndirect op then .next (s.finish used (s1.raiseHard .addr))
  else
    match op with
    | .direct w =>
      .next (s.finish used ((s1.writeW w (setBit (s1.readW w) bit.val (Config.freeBool s1.free))).draw.execFlags))
    | .indirect w =>
      if s.badRead size op then .next (s.finish used (s1.raiseHard .addr).execFlags)
      else
        andThen (s1.draw.execFlags.storeBit (s.readW w) bit (Config.freeBool s1.free)) fun t => .next (s.finish used t)
    | .paged _ =>
      if s.dsrpag = 0 ∨ s.dswpag = 0 then .next (s.finish used (s1.raiseHard .addr).execFlags)
      else .refused .pagedWrite

/-- The destination of MOV.D written, where no access of the instruction raised the address error (R94, R59). -/
def State.dwStore (dst : DwOperand) (lo hi : Word) (s : State) : Result :=
  match dst with
  | .pair p => .next ((s.writeW (pairLow p) lo).writeW (pairHigh p) hi)
  | .indirect w =>
    andThen (s.storeWord (s.readW w) lo) fun t => t.storeWord (s.readW w + 2) hi
  | .paged _ => .refused .pagedWrite

/-- Whether a double-word destination is in memory. -/
def DwOperand.inMemory : DwOperand → Bool
  | .pair _ => false
  | .indirect _ => true
  | .paged _ => true

/-- MOV.D, a double-word move (R94): each of its word accesses is checked, and a write to memory is inhibited where one of
them raised the address error (R59). -/
def execMovD (src dst : DwOperand) (s0 : State) : Result :=
  let s := s0.fresh
  let s1 := (s.dwCheck src).dwCheck dst
  let bad := s.dwBad src s.dsrpag || s.dwBad dst s.dswpag
  let s2 := (if bad then s1.raiseHard .addr else s1).draw.draw.execFlags
  let v := s.dwValue src
  let used := DwOperand.usesW15 src || DwOperand.usesW15 dst
  if bad && DwOperand.inMemory dst then .next (s.finish used s2)
  else andThen (s2.dwStore dst v.1 v.2) fun t => .next (s.finish used t)

/-- TBLRDx, a table read of program memory through a W register: what it leaves in its destination is `ExecInstr` (R95). -/
def execTblrd (ptr dst : WReg) (s0 : State) : Result :=
  let s := s0.fresh
  let s1 := s.pointerCheck ptr (s.readW ptr) false
  .next (s.finish (ptr.val == 15) (s1.writeW dst (Config.freeWord s1.free)).draw.execFlags)

/-- A software write of a special function register (R98). -/
def execSfrWrite (reg : Sfr) (mask value : Word) (s0 : State) : Result :=
  let s := s0.fresh
  andThen (s.writeSfr reg mask value) fun t => .next (s.finish false t)

/-- The end of an access through W15 begun in state `s`: the value left in W15 is checked, moved or not (R99). -/
def State.finishStack (s : State) (t : State) : State := (t.advance.underflowCheck).settle s.cpuIpl

/-- A load through W15 with a displacement, of what state `src` holds; what a bad access returns is free, and so is the upper byte
of a register that a byte is loaded into. -/
def State.stackLoad (s : State) (size : Size) (ea : Word) (dst : WReg) (src : State) : State :=
  if s.badAccess size ea then ((s.raiseHard .addr).writeW dst (Config.freeWord s.free)).draw
  else
    match size with
    | .byte => (s.writeW dst (highByte (Config.freeWord s.free) ++ src.loadByte ea)).draw
    | .word => s.writeW dst (src.loadWord ea)

/-- A store through W15 with a displacement; a bad access writes nothing (R59). -/
def State.stackStore (size : Size) (ea : Word) (v : Word) (s : State) : Result :=
  if s.badAccess size ea then .next (s.raiseHard .addr)
  else
    match size with
    | .byte => s.storeByte ea (lowByte v)
    | .word => s.storeWord ea v

/-- CORCON.SFA written by hardware. -/
def State.setSfa (b : Bool) (s : State) : State := { s with corcon := setBit s.corcon 2 b }

/-- A call (R99): the address after it is pushed as the two words that RETURN pops (R91, R60), and control goes to the target. The
other bits of the two words and SFA are not in the source, and free (N24, notes/assumptions/53). -/
def State.stackCall (target : BitVec 23) (s : State) : Result :=
  let v := Config.freeWord s.free
  let back := s.pc + 2
  andThen (s.draw.pushPair (back.extractLsb' 1 15 ++ v.extractLsb' 0 1) (v.extractLsb' 7 9 ++ back.extractLsb' 16 7)) fun t =>
    .next ((((t.setSfa (v.getLsbD 1)).setPc (target.zeroExtend 24)).underflowCheck).settle s.cpuIpl)

/-- A link (R99): W14 is pushed and takes the new W15, and W15 goes up by the frame's size (notes/assumptions/53). -/
def State.stackLink (lit14 : BitVec 14) (s : State) : Result :=
  andThen (s.draw.push16 (s.readW 14)) fun t =>
    .next (s.finishStack
      (({ t.writeW 14 t.w15 with w15 := t.w15 + lit14.zeroExtend 16 } : State).setSfa (Config.freeBool s.free)))

/-- An unlink (R99): W15 takes W14, and W14 is popped (notes/assumptions/53). -/
def State.stackUnlink (s : State) : State :=
  let s1 := { s with w15 := s.readW 14 }
  s.finishStack (((s1.pop16.writeW 14 s1.popValue).draw).setSfa (Config.freeBool s1.pop16.free))

/-- An access through W15: a push, a pop, a move with a displacement, a call, a link or an unlink, with the stack checks
(R99, R60). -/
def execW15Access (op : StackOp) (s0 : State) : Result :=
  let s := s0.fresh
  match op with
  | .push src => andThen (s.push16 (s.readW src)) fun t => .next (s.finishStack t)
  | .pop dst => .next (s.finishStack (s.pop16.writeW dst s.popValue))
  | .load size disp dst =>
    .next (s.finishStack ((s.stackCheck (s.stackEa disp) (s.stackCarry disp)).stackLoad size (s.stackEa disp) dst s))
  | .store size disp src =>
    andThen ((s.stackCheck (s.stackEa disp) (s.stackCarry disp)).stackStore size (s.stackEa disp) (s.readW src)) fun t =>
      .next (s.finishStack t)
  | .call target => s.stackCall target
  | .link lit14 => s.stackLink lit14
  | .unlink => .next s.stackUnlink

end Sys2Proof.Machine
end

