-- ==== Sys2Proof/Machine/Interrupt.lean ====
section
/-! DEFINITION. The interrupt control instructions of 40_interrupt_control_instructions.md: NOP, DISI, RETFIE, RESET, PWRSAV. -/

namespace Sys2Proof.Machine

open Sys2Proof

/-- NOP "changes no state but pc <- pc + 2" (R84). -/
def execNop (s : State) : Result := .next s.advance

/-- DISI: DISICNT takes the literal, INTCON2.DISI says whether it is not 0 (R80). -/
def execDisi (lit14 : BitVec 14) (s : State) : Result :=
  .next { s with
    disicnt := lit14
    intcon2 := setBit s.intcon2 14 (lit14 != 0)
    pc := s.pc + 2
    log := { s.log with disiLoad := true } }

/-- RETFIE is the return from an exception (R81). -/
def execRetfie (s : State) : Result := .next s.exceptionReturn

/-- RESET is a device reset by software (R82). -/
def execReset (s : State) : Result := .next (s.deviceReset .software)

/-- PWRSAV enters Sleep or Idle with the PC after it (R83). -/
def execPwrsav (m : SleepMode) (s : State) : Result :=
  .next { s with
    mode := match m with | .sleep => .sleep | .idle => .idle
    pc := s.pc + 2 }

end Sys2Proof.Machine
end

