-- ==== Sys2Proof/Machine/Dispatch.lean ====
section
/-! DEFINITION. The meaning of every instruction, one arm each. -/

namespace Sys2Proof.Machine

open Sys2Proof

/-- What an instruction does. -/
def exec (i : Instr) (s : State) : Host.Outcome State Fault Refusal :=
  match i with
  | .nop => Sys2Proof.Machine.execNop s
  | .disi lit14 => Sys2Proof.Machine.execDisi lit14 s
  | .retfie => Sys2Proof.Machine.execRetfie s
  | .ret => Sys2Proof.Machine.execRet s
  | .reset => Sys2Proof.Machine.execReset s
  | .pwrsav m => Sys2Proof.Machine.execPwrsav m s
  | .goto target => Sys2Proof.Machine.execGoto target s
  | .bra slit16 => Sys2Proof.Machine.execBra slit16 s
  | .sftac acc amount => Sys2Proof.Machine.execSftac acc amount s
  | .div divisor firstIteration dsts => Sys2Proof.Machine.execDiv divisor firstIteration dsts s
  | .repeatLoop => Sys2Proof.Machine.execRepeatLoop s
  | .doLoop count stop => Sys2Proof.Machine.execDoLoop count stop s
  | .macClass acc x y dsts => Sys2Proof.Machine.execMacClass acc x y dsts s
  | .bitManip size bit op => Sys2Proof.Machine.execBitManip size bit op s
  | .movD src dst => Sys2Proof.Machine.execMovD src dst s
  | .tblrd ptr dst => Sys2Proof.Machine.execTblrd ptr dst s
  | .btsc bit op => Sys2Proof.Machine.execBtsc bit op s
  | .btss bit op => Sys2Proof.Machine.execBtss bit op s
  | .sfrWrite reg mask value => Sys2Proof.Machine.execSfrWrite reg mask value s
  | .w15Access op => Sys2Proof.Machine.execW15Access op s

end Sys2Proof.Machine
end

