-- ==== Sys2Proof/Machine/Fetch.lean ====
section
/-! DEFINITION. Fetching the instruction at the program counter from program memory (R50, R72). -/

namespace Sys2Proof.Machine

open Sys2Proof

/-- The bytes of the two program words at the program counter. The second is what program memory holds there, whether or not that
address is implemented and whether or not an instruction without an encoding stands there (notes/assumptions/54). -/
def State.fetchBytes (s : State) : List Byte :=
  bytesOfWord (s.progWord s.pc) ++ bytesOfWord (s.progWord (s.pc + 2))

/-- The refusal of a decoder's error (R74). -/
def refusalOf : DecodeError → Refusal
  | .noRule w => .noRule w
  | .gotoSecondWord w => .gotoSecondWord w
  | .truncated => .illFormed

/-- The instruction at the program counter: one standing there without an encoding, or the one that the words there
decode to. -/
def State.fetch (s : State) : Host.Outcome Instr Fault Refusal :=
  if s.pc.getLsbD 0 then .fault .oddProgramCounter
  else
    match s.symbolicAt s.pc with
    | some i => if i.wf then .next i else .refused .illFormed
    | none =>
      match decode s.fetchBytes with
      | .ok (i, _) => .next i
      | .error e => .refused (refusalOf e)

/-- Program memory with bytes stored from a byte address on. -/
def Memory.program (m : Memory) (a : Nat) : List Byte → Memory
  | [] => m
  | b :: bs => Memory.program (Memory.set progUnlisted m a b) (a + 1) bs

/-- Program memory with six bytes stored as the two program words at `p` and `p + 2`. -/
def Memory.programWords (m : Memory) (p : PAddr) (bs : List Byte) : Memory :=
  Memory.program (Memory.program m (2 * p.toNat) (bs.take 3)) (2 * (p + 2).toNat) (bs.drop 3)

end Sys2Proof.Machine
end

