-- ==== Sys2Proof/Machine/Step.lean ====
section
/-! DEFINITION. One step of the machine (R3, D1): at a boundary an exception is taken or one instruction runs, or the CPU
sleeps; then the environment acts. -/

namespace Sys2Proof.Machine

open Sys2Proof

/-- One instruction runs: the one at the program counter, or the address error of an unimplemented program address (R56).
Of a GOTO's two words the first alone is asked for (notes/assumptions/54). -/
def State.runInstr (s : State) : Host.Outcome State Fault Refusal :=
  if s.dev.progAt s.pc then
    match s.fetch with
    | .next i => andThen (exec i s) fun t => .next (t.loopEnd s.pc)
    | .fault e => .fault e
    | .refused e => .refused e
  else .next ((s.fresh.raiseHard .addr).settle s.cpuIpl)

/-- The CPU's part of a step at the boundary of an awake CPU, whose sampled winner is `e`: a hard trap is taken at once
(R113), another exception is taken or put off for one instruction (R111, D8), else an instruction runs. -/
def State.boundary (e : Option Exc) (s : State) : Host.Outcome State Fault Refusal :=
  match e with
  | none => State.runInstr { s with skid := 0 }
  | some e =>
    if e.hard then s.takeException e
    else if s.defers then s.unlessPastLimit e s.waiting.runInstr
    else s.draw.takeException e

/-- The CPU's part of a step: a sleeping CPU does nothing until it wakes (R83, R150); a step of the CPU ends with the count
of DISICNT (R80). -/
def State.cpuStep (s : State) : Host.Outcome State Fault Refusal :=
  let t := s.wake
  if t.mode = .run then andThen (t.tickGie.boundary t.winner) fun u => .next u.tickDisi
  else .next t

/-- One step of the machine. -/
def step (s : State) : Host.Outcome State Fault Refusal :=
  andThen s.fresh.cpuStep fun t => .next t.environment

/-- The state with an instruction of the opcode table stored where the next step fetches: its words in program memory at the
program counter, and no instruction without an encoding standing there. -/
def State.withFetchWord (s : State) (nbits w : Nat) : State :=
  { s with
    prog := Memory.programWords s.prog s.pc (tableBytes nbits w)
    symbolic := s.symbolic.filter (fun e => !(e.1 == s.pc)) }

end Sys2Proof.Machine
end

