-- ==== Sys2Proof/Safety.lean ====
section
/-! DEFINITION. The terms that claims are stated in: where the stack is usable, when a step runs an instruction, and the
invariants of a safe run. -/

namespace Sys2Proof.Machine

open Sys2Proof

/-- A word of implemented data memory at an even address. -/
def State.ramWordAt (s : State) (a : Word) : Prop := s.badAccess .word a = false ∧ s.dev.sfrAt a = none

/-- A two-word frame can be pushed. -/
def State.framePushable (s : State) : Prop := s.ramWordAt s.w15 ∧ s.ramWordAt (s.w15 + 2)

/-- A two-word frame can be popped. -/
def State.framePoppable (s : State) : Prop := s.ramWordAt (s.w15 - 2) ∧ s.ramWordAt (s.w15 - 4)

/-- An effective address made from W15 without a carry fails the overflow check (R133). -/
def State.overLimit (s : State) (ea : Word) : Prop := s.splimWritten = true ∧ s.splim < ea

/-- Address `b` is none of the two bytes of the word at `a`. -/
def offWord (a b : Word) : Prop := b ≠ a ∧ b ≠ a + 1

/-- An address error detected now is no hard trap conflict (R127). -/
def State.addrErrorFree (s : State) : Prop := s.cpuIpl < 14 ∧ s.trapRequest .oscillator = false

/-- An instruction whose access raises the address error before anything is written: a bit manipulation or bit test through an
odd address, an unimplemented or misaligned operand that would be written, a paged access with page 0 (R53 to R57, R93). -/
def State.writesBadly (s : State) (i : Instr) : Prop :=
  (∃ size bit w, i = .bitManip size bit (.indirect w) ∧
    ((s.readW w).getLsbD 0 = true ∨ s.badAccess size (s.readW w) = true)) ∨
  (∃ bit w, (i = .btsc bit (.indirect w) ∨ i = .btss bit (.indirect w) ∨ i = .btsc bit (.paged w) ∨
    i = .btss bit (.paged w)) ∧ (s.readW w).getLsbD 0 = true) ∨
  (∃ size bit w, i = .bitManip size bit (.paged w) ∧
    ((s.readW w).getLsbD 0 = true ∨ s.dsrpag = 0 ∨ s.dswpag = 0)) ∨
  (∃ p w, i = .movD (.pair p) (.indirect w) ∧
    (s.badAccess .word (s.readW w) = true ∨ s.badAccess .word (s.readW w + 2) = true)) ∨
  (∃ p w, i = .movD (.pair p) (.paged w) ∧ ((s.readW w).getLsbD 0 = true ∨ s.dswpag = 0)) ∨
  (∃ size disp r, i = .w15Access (.store size disp r) ∧ s.badAccess size (s.w15 + disp) = true) ∨
  (∃ r, i = .w15Access (.push r) ∧ s.badAccess .word s.w15 = true)

/-- An instruction that reads a misaligned or unimplemented operand, or a page 0 (R53, R55, R57, R92). -/
def State.readsBadly (s : State) (i : Instr) : Prop :=
  (∃ size disp r, i = .w15Access (.load size disp r) ∧ s.badAccess size (s.w15 + disp) = true) ∨
  (∃ r, i = .w15Access (.pop r) ∧ s.badAccess .word (s.w15 - 2) = true) ∨
  (∃ w p, i = .movD (.indirect w) (.pair p) ∧
    (s.badAccess .word (s.readW w) = true ∨ s.badAccess .word (s.readW w + 2) = true)) ∨
  (∃ w p, i = .movD (.paged w) (.pair p) ∧ ((s.readW w).getLsbD 0 = true ∨ s.dsrpag = 0)) ∨
  (∃ bit w, (i = .btsc bit (.paged w) ∨ i = .btss bit (.paged w)) ∧
    ((s.readW w).getLsbD 0 = true ∨ s.dsrpag = 0)) ∨
  (∃ bit w, (i = .btsc bit (.indirect w) ∨ i = .btss bit (.indirect w)) ∧ s.badAccess .word (s.readW w) = true) ∨
  (∃ acc x y dsts, i = .macClass acc x y dsts ∧ s.dev.hasDsp = true ∧
    (s.badAccess .word (s.readW x) = true ∨ s.dev.inY (s.readW x).toNat = true ∨
      s.badAccess .word (s.readW y) = true ∨ s.dev.inY (s.readW y).toNat = false))

/-- A call, link or unlink one of whose stack words cannot be accessed (R99, R53, R55). -/
def State.framesBadly (s : State) (i : Instr) : Prop :=
  (∃ target, i = .w15Access (.call target) ∧
    (s.badAccess .word s.w15 = true ∨ s.badAccess .word (s.w15 + 2) = true)) ∨
  (∃ lit14, i = .w15Access (.link lit14) ∧ s.badAccess .word s.w15 = true) ∨
  (i = .w15Access .unlink ∧ s.badAccess .word (s.readW 14 - 2) = true)

/-- What software reads of each special function register: the register, the positions of sources that the device lacks 0 (R24,
R34) and DISICNT extended by zeros (R27). -/
def State.sfrReads (s : State) : Prop :=
  s.readSfr .sr = s.sr ∧ s.readSfr .corcon = s.corcon ∧ s.readSfr .intcon1 = s.intcon1 ∧ s.readSfr .intcon2 = s.intcon2 ∧
  s.readSfr .intcon3 = s.intcon3 ∧ s.readSfr .intcon4 = s.intcon4 ∧ s.readSfr .inttreg = s.inttreg ∧
  s.readSfr .splim = s.splim ∧ s.readSfr .rcon = s.rcon ∧ s.readSfr .osccon = s.osccon ∧
  s.readSfr .dsrpag = s.dsrpag ∧ s.readSfr .dswpag = s.dswpag ∧
  s.readSfr .disicnt = 0#2 ++ s.disicnt ∧
  (∀ (k : Fin 16) (i : Nat), i < 16 →
    (s.readSfr (.ifs k)).getLsbD i = (s.implemented (16 * k.val + i) && s.ifs[k].getLsbD i) ∧
    (s.readSfr (.iec k)).getLsbD i = (s.implemented (16 * k.val + i) && s.iec[k].getLsbD i)) ∧
  (∀ (k : Fin 62) (j : Fin 4), (s.readSfr (.ipc k)).extractLsb' (4 * j.val) 4 =
    if s.implemented (4 * k.val + j.val) then 0#1 ++ s.ipc[k].extractLsb' (4 * j.val) 3 else 0)

/-- The overflow checks of the accesses of an instruction through W register `w`, of a word or of two words (R99, R133). -/
def State.pointerFails (s : State) (w : WReg) (two : Bool) : Prop :=
  w.val = 15 ∧ (s.overLimit s.w15 ∨ (two = true ∧ (s.overLimit (s.w15 + 2) ∨ 0xFFFE ≤ s.w15)))

/-- A bit manipulation, or a bit test, of memory through W register `w`. -/
def bitThrough (i : Instr) (w : WReg) : Prop :=
  (∃ size bit, i = .bitManip size bit (.indirect w) ∨ i = .bitManip size bit (.paged w)) ∨
  ∃ bit, i = .btsc bit (.indirect w) ∨ i = .btsc bit (.paged w) ∨ i = .btss bit (.indirect w) ∨ i = .btss bit (.paged w)

/-- The address after the next instruction, which a skip goes to: two words further where that is an encoded GOTO (R72, R96). A
word that would be refused if it were executed (R74) is skipped all the same (notes/assumptions/35). -/
def State.skipTarget (s : State) : PAddr :=
  if s.symbolicAt (s.pc + 2) = none ∧ s.progWord (s.pc + 2) &&& 0xFF0001 = 0x040000 then s.pc + 6 else s.pc + 4

/-- An overflow event `v` and a catastrophic overflow event `c` of the MAC class, each or none, set their flags in INTCON1 and
SR, an event only where the saturation mode allows it and a trap flag only with its enable (R135, R136): no saturation with
SATA (CORCON<7>), or SATB (CORCON<6>), at 0, else of 31 bits with ACCSAT (CORCON<4>) at 0 and of 39 with it at 1 (R13). -/
def State.macFlags (s t : State) (acc : AccSel) : Prop :=
  ∃ v c : Bool,
    (v = true → s.corcon.getLsbD (if acc = .a then 7 else 6) = false ∨ s.corcon.getLsbD 4 = true) ∧
    (c = true → s.corcon.getLsbD (if acc = .a then 7 else 6) = false) ∧
    t.intcon1.getLsbD 14 = (s.intcon1.getLsbD 14 || (v && (acc == .a) && s.intcon1.getLsbD 10)) ∧
    t.intcon1.getLsbD 13 = (s.intcon1.getLsbD 13 || (v && (acc == .b) && s.intcon1.getLsbD 9)) ∧
    t.intcon1.getLsbD 12 = (s.intcon1.getLsbD 12 || (c && (acc == .a) && s.intcon1.getLsbD 8)) ∧
    t.intcon1.getLsbD 11 = (s.intcon1.getLsbD 11 || (c && (acc == .b) && s.intcon1.getLsbD 8)) ∧
    t.intcon1.getLsbD 4 =
      (s.intcon1.getLsbD 4 || (v && (acc == .a) && s.intcon1.getLsbD 10)
        || (v && (acc == .b) && s.intcon1.getLsbD 9) || (c && s.intcon1.getLsbD 8)) ∧
    (v = true → acc = .a → t.sr.getLsbD 15 = true) ∧ (v = true → acc = .b → t.sr.getLsbD 14 = true)

/-- The priority, INTTREG and the register set after a trap is taken (R117, R119, R120). -/
def State.entersTrap (s t : State) (e : Trap) : Prop :=
  t.corcon.getLsbD 3 = true ∧ t.cpuIpl = e.level s.dev ∧ t.ilr.toNat = e.level s.dev ∧ t.activeCtx = s.activeCtx

/-- The priority, INTTREG and the register set after an interrupt is taken: the source's level, or 7 with NSTDIS = 1 (R117);
its level and number (R120); the set whose CTXT field, FALTREG<2:0> or FALTREG<6:4>, codes its level (R26, R119), from which W0
to W14 are read where it replaces them (R11). -/
def State.entersIrq (s t : State) (n : Nat) : Prop :=
  t.corcon.getLsbD 3 = s.corcon.getLsbD 3 ∧
  t.sr.extractLsb' 5 3 = (if s.intcon1.getLsbD 15 then 7 else s.ipcOf n) ∧
  t.ilr.toNat = (s.ipcOf n).toNat ∧ (n < 246 → t.vecnum.toNat = n) ∧
  t.activeCtx =
    (if s.dev.hasAltW then
      (if s.dev.faltreg.extractLsb' 0 3 ≠ 7 ∧ (s.dev.faltreg.extractLsb' 0 3).toNat + 1 = (s.ipcOf n).toNat then .alt1
      else if s.dev.faltreg.extractLsb' 4 3 ≠ 7 ∧ (s.dev.faltreg.extractLsb' 4 3).toNat + 1 = (s.ipcOf n).toNat then .alt2
      else s.activeCtx)
    else s.activeCtx) ∧
  ∀ j : Fin 15, t.readW ⟨j.val, by omega⟩ =
    if s.dev.hasAltW = true ∧ s.dev.altRegs.getLsbD j.val = true ∧ t.activeCtx = .alt1 then s.alt1[j]
    else if s.dev.hasAltW = true ∧ s.dev.altRegs.getLsbD j.val = true ∧ t.activeCtx = .alt2 then s.alt2[j]
    else s.w[j]

/-- The register set after RETFIE (R81): the one that the last entry stacked, where the device has alternate sets. -/
def State.restoresCtx (s t : State) : Prop :=
  (s.dev.hasAltW = true → ∀ c cs, s.ctxStack = c :: cs → t.activeCtx = c ∧ t.ctxStack = cs) ∧
  (s.dev.hasAltW = false ∨ s.ctxStack = [] → t.activeCtx = s.activeCtx ∧ t.ctxStack = s.ctxStack)

/-- The CPU is awake, nothing is deliverable, and the program counter is at an implemented even address. -/
def State.readyToRun (s : State) : Prop :=
  s.mode = .run ∧ s.winner = none ∧ s.dev.progAt s.pc = true ∧ s.pc.getLsbD 0 = false

/-- Two states have the same program memory and the same device (R68, D20). -/
def State.sameProgram (s t : State) : Prop := t.prog = s.prog ∧ t.symbolic = s.symbolic ∧ t.dev = s.dev

/-- An INTCON1 that was `base` becomes `after`: STKERR is set exactly if `P` (R133). -/
def stackFlag (base after : Word) (P : Prop) : Prop := (P → after = base ||| 0x0004) ∧ (¬P → after = base)

/-- What the log of the step holds: which hard trap conditions it has detected (R127), and whether it loaded DISICNT (R80); a
stack error that it has detected has its flag (R147). -/
def State.logIs (t : State) (osc addr gen disiLoad : Prop) : Prop :=
  (t.log.osc = true ↔ osc) ∧ (t.log.addr = true ↔ addr) ∧ (t.log.gen = true ↔ gen) ∧
  (t.log.disiLoad = true ↔ disiLoad) ∧
  (t.log.stk = true → t.intcon1.getLsbD 2 = true)

/-- The step has detected no hard trap condition and loaded no DISICNT. -/
def State.quiet (t : State) : Prop := t.logIs False False False False

/-- The step has detected an address error, and no other hard trap condition. -/
def State.addrLogged (t : State) : Prop := t.logIs False True False False

/-- An address error was detected and nothing else of INTCON1 has changed but STKERR, which is set exactly if `P` (R131, R133,
R147). -/
def State.addrErrorSet (s t : State) (P : Prop) : Prop :=
  t.intcon1.getLsbD 3 = true ∧ t.intcon1 &&& 0xFFF3 = s.intcon1 &&& 0xFFF3 ∧
  (t.intcon1.getLsbD 2 = true ↔ s.intcon1.getLsbD 2 = true ∨ P)

/-- W15 is below the stack's lower bound after an instruction that used it as a pointer or changed it (R99, R133). -/
def State.leftBelow (used : Prop) (s t : State) : Prop := (used ∨ t.w15 ≠ s.w15) ∧ t.w15 < 0x1000

/-- A state after a device reset in `s`, whatever its cause: every register that R35 gives a reset value has it, the PC is 0,
or the Reset location in Auxiliary Flash of a device that has one (R184), the hidden variables are as D24 has them, and program
memory, device, environment and pins stay (R180, R181). -/
def State.resetTo (s t : State) : Prop :=
  t.pc = (if s.dev.hasAux then s.dev.resetPc else 0x000000) ∧ t.w15 = 0x1000 ∧ t.sr = 0x0000 ∧ t.corcon = 0x0020
  ∧ t.intcon1 = 0x0000 ∧ t.intcon2 = 0x8000 ∧ t.intcon3 = 0x0000 ∧ t.intcon4 = 0x0000
  ∧ (∀ k : Fin 16, t.ifs[k] = 0x0000 ∧ t.iec[k] = 0x0000) ∧ (∀ k : Fin 62, t.ipc[k] = 0x4444) ∧ t.inttreg = 0x0000
  ∧ t.disicnt = 0 ∧ t.splimWritten = false ∧ t.activeCtx = .default ∧ t.ctxStack = [] ∧ t.gieLag = 0
  ∧ t.skid = 0 ∧ t.mode = .run ∧ s.sameProgram t ∧ t.env = s.env ∧ t.pins = s.pins ∧ t.log = {}

/-- A state after a device reset by a hard trap conflict in `s` (R127, R180). -/
def State.conflictReset (s t : State) : Prop := t.trapr = true ∧ s.resetTo t

/-- Of the working registers of all three sets, only those of the set in use that the list names have changed. -/
def State.onlyRegs (s t : State) (ds : List WReg) : Prop :=
  (∀ j : WReg, j ∉ ds → t.readW j = s.readW j) ∧
  ∀ j : Fin 15,
    (s.bankOf j.val ≠ .default → t.w[j] = s.w[j]) ∧ (s.bankOf j.val ≠ .alt1 → t.alt1[j] = s.alt1[j])
    ∧ (s.bankOf j.val ≠ .alt2 → t.alt2[j] = s.alt2[j])

/-- A software write took a register from `old` to `new`, bit by bit: an R/W bit that the mask selects takes the value's bit,
an R/C bit is cleared by a 0 and kept by a 1, every other bit stays (R98). -/
def bitsWritten (old new mask value rw rc : Word) : Prop :=
  ∀ i, i < 16 → new.getLsbD i =
    if mask.getLsbD i && rw.getLsbD i then value.getLsbD i
    else if mask.getLsbD i && rc.getLsbD i then old.getLsbD i && value.getLsbD i
    else old.getLsbD i

/-- The memories are in canonical form. -/
def State.memoryCanonical (s : State) : Prop :=
  Memory.wf ramUnlisted s.ram = true ∧ Memory.wf progUnlisted s.prog = true

/-- The program counter is even, and so is every address a step can set it to: the Reset location and the starts of the
DO loops in progress, of which there are at most four. -/
def State.pcAligned (s : State) : Prop :=
  s.pc.getLsbD 0 = false ∧ s.dev.resetAddr.getLsbD 0 = false ∧ s.dl.toNat ≤ 4 ∧
    ∀ k : Fin 4, k.val < s.dl.toNat → s.doStack[k].start.getLsbD 0 = false

/-- Unimplemented bits are 0 (R34): of CORCON, INTCON1 to INTCON4, INTTREG, and bit 3 of every nibble of IPCx. -/
def State.reservedClear (s : State) : Prop :=
  s.corcon.getLsbD 14 = false
  ∧ s.intcon1 &&& ~~~s.dev.intcon1Bits = 0
  ∧ s.intcon2 &&& 0x1EE0 = 0
  ∧ s.intcon3 &&& ~~~s.dev.intcon3Bits = 0
  ∧ s.intcon4 &&& 0xFFFE = 0
  ∧ s.inttreg &&& 0xF000 = 0
  ∧ ∀ k : Fin 62, s.ipc[k] &&& 0x8888 = 0

/-- While INTCON2.DISI is 1 the count is not 0 (R80). -/
def State.disiCounts (s : State) : Prop := s.disi = true → s.disicnt ≠ 0

end Sys2Proof.Machine
end

