-- ==== Sys2Proof/Certificates/Slice0/Obligations.lean ====
section
/-! DEFINITION. The statements for the provers. Each docstring names the rules of spec/ it formalises; a clause that is the
model's choice names its row of the assumption log. In a result, `quiet`, `addrLogged` and `logIs` say which events of R127, and
whether a load of DISICNT (R80), the log of the step holds. -/

open Sys2Proof Sys2Proof.Machine

/-! ### Encoding -/

/-- Decoding the bytes of a well-formed instruction gives it back, and leaves the bytes after it (R72). -/
def Obligations.DecodeOfEncodeIsSame : Prop :=
  ∀ (i : Instr) (bs rest : List Byte), i.wf = true → encodeBytes i = some bs → decode (bs ++ rest) = .ok (i, rest)

/-- What the decoder reads is well formed, and the bytes it reads are that instruction's, but for the low 16 bits of NOP, which
R72 calls ignored. -/
def Obligations.EncodeOfDecodeIsSame : Prop :=
  ∀ (bs rest : List Byte) (i : Instr), decode bs = .ok (i, rest) →
    i.wf = true ∧
    ((i = .nop ∧ ∃ b0 b1 : Byte, bs = b0 :: b1 :: 0x00#8 :: rest) ∨
      (i ≠ .nop ∧ ∃ e, encodeBytes i = some e ∧ bs = e ++ rest))

/-- The words of the table of encodings (R72; the words stand in 95_test_vectors.md section 2.13) decode to their
instructions. -/
def Obligations.KnownWordsDecode : Prop :=
  decodeTableWord 24 0x00ABCD = some .nop ∧ decodeTableWord 24 0xFC0003 = some (.disi 3) ∧
  decodeTableWord 24 0xFC3FFF = some (.disi 16383) ∧ decodeTableWord 24 0x064000 = some .retfie ∧
  decodeTableWord 24 0x060000 = some .ret ∧ decodeTableWord 24 0xFE0000 = some .reset ∧
  decodeTableWord 24 0xFE4000 = some (.pwrsav .sleep) ∧ decodeTableWord 24 0xFE4001 = some (.pwrsav .idle) ∧
  decodeTableWord 24 0x040200 = some (.goto 0x000200) ∧
  decode (bytesOfWord 0x04F000 ++ bytesOfWord 0x00007F) = .ok (.goto 0x7FF000, []) ∧
  decodeTableWord 24 0x37FFFF = some (.bra 0xFFFF) ∧ decodeTableWord 24 0x37007F = some (.bra 0x007F)

/-- "A binary-level model refuses, by name, every instruction word it has no rule for" (R74): a step whose fetched word matches
no row of the table is refused with that word, and so is a GOTO whose second word does not match.
Model's choices: notes/assumptions/47 and 54. -/
def Obligations.UnknownWordIsRefused : Prop :=
  ∀ (s : State) (w : PWord), s.readyToRun → s.symbolicAt s.pc = none → s.progWord s.pc = w →
    (w &&& 0xFF0000 ≠ 0x000000 → w &&& 0xFFC000 ≠ 0xFC0000 → w ≠ 0x064000 → w ≠ 0x060000 → w ≠ 0xFE0000 →
      w &&& 0xFFFFFE ≠ 0xFE4000 → w &&& 0xFF0001 ≠ 0x040000 → w &&& 0xFF0000 ≠ 0x370000 →
      step s = .refused (.noRule w)) ∧
    (w &&& 0xFF0001 = 0x040000 → s.progWord (s.pc + 2) &&& 0xFFFF80 ≠ 0 →
      step s = .refused (.gotoSecondWord (s.progWord (s.pc + 2))))

/-! ### What a step runs -/

/-- A step of an awake CPU with nothing deliverable runs the instruction that the words at the program counter decode to (R3,
R50), or the well-formed instruction standing there without an encoding (30_encoding.md section 5); around it stand the end of a
DO loop, the count of DISICNT (R80) and the environment (R103).
Model's choices: notes/assumptions/7, 8, 11, 24 and 54. -/
def Obligations.StepRunsDecodedInstr : Prop :=
  ∀ (s : State) (i : Instr), s.readyToRun →
    ((∃ rest, s.symbolicAt s.pc = none ∧
        decode (bytesOfWord (s.progWord s.pc) ++ bytesOfWord (s.progWord (s.pc + 2))) = .ok (i, rest)) ∨
      (s.symbolicAt s.pc = some i ∧ i.wf = true)) →
    step s = andThen (exec i { s with gieLag := s.gieLag - 1, log := {}, skid := 0 }) fun t =>
      .next (t.loopEnd s.pc).tickDisi.environment

/-- "A hard trap is taken at the first boundary at which it is deliverable; no instruction executes in between" (R113). -/
def Obligations.HardTrapTakenAtOnce : Prop :=
  ∀ (s : State) (t : Trap), s.winner = some (.trap t) → t.hard = true →
    step s = andThen (State.takeException (.trap t) { s with gieLag := s.gieLag - 1, log := {}, mode := .run }) fun u =>
      .next u.tickDisi.environment

/-- An interrupt or a soft trap is taken, or put off for one instruction more while the bound on its wait allows: SKID_MAX, or a
number drawn when the wait begins (R111, R112, D8). Where that instruction and one it skips would go past the bound, the request
is taken before it.
Model's choices: notes/assumptions/9. -/
def Obligations.RequestTakenWithinSkid : Prop :=
  ∀ (s : State) (e : Exc) (taken run : Host.Outcome State Fault Refusal),
    s.mode = .run → s.winner = some e → e.hard = false →
    taken = (andThen (State.takeException e { s with gieLag := s.gieLag - 1, log := {}, free := s.free + 1 }) fun u =>
      .next u.tickDisi.environment) →
    run = State.runInstr { s with
      gieLag := s.gieLag - 1, log := {}, free := s.free + 1, skid := s.skid + 1, skidBound := s.skidLimit } →
    (∀ m, s.dev.skidMax = some m → s.skidLimit = m) ∧
    (s.skidLimit ≤ s.skid ∨ Config.freeBool s.free = false → step s = taken) ∧
    (s.skid < s.skidLimit → Config.freeBool s.free = true →
      (∀ u, run = .next u → u.skid ≤ s.skidLimit → step s = .next u.tickDisi.environment) ∧
      (∀ u, run = .next u → s.skidLimit < u.skid → step s = taken) ∧
      (∀ r, run = .refused r → step s = .refused r) ∧ ∀ f, run = .fault f → step s = .fault f)

/-- The count of the instructions that ran while a request waits never passes its bound, and while the request goes on waiting
the count rises and the bound stays, so it is taken in the end, whether or not SKID_MAX is bounded (R111, R96, D8).
Model's choices: notes/assumptions/9. -/
def Obligations.RequestCountStaysWithinBound : Prop :=
  ∀ s t : State, s.skid ≤ s.skidLimit → step s = .next t →
    t.skid ≤ t.skidLimit ∧
    (s.mode = .run → 0 < t.skid → s.skid < t.skid ∧ t.skidLimit = s.skidLimit)

/-- Sources of level 0, and sources not enabled or not requesting, do not wake the CPU: a step is the environment's alone, no
instruction executes, and mode and PC stay unless the environment resets the device, by a reset event or an oscillator failure
at CPU priority 15 (R151, R83, R127).
Model's choices: notes/assumptions/8, 11 and 45. -/
def Obligations.LevelZeroSourceCannotWake : Prop :=
  ∀ s : State, s.mode ≠ .run → s.trapWinner = none →
    (∀ n, s.implemented n = true → s.ifsBit n = true → s.iecBit n = true → (s.ipcOf n).toNat = 0) →
    step s = .next s.fresh.environment ∧
    (.deviceReset ∉ s.env.headD [] → (.oscFail ∈ s.env.headD [] → s.cpuIpl < 15) →
      ∃ t, step s = .next t ∧ t.mode = s.mode ∧ t.pc = s.pc)

/-- An enabled and requesting source of level 1 or above wakes the CPU, whatever GIE and DISI, and so does a deliverable trap:
the step is that of the awake CPU, which takes the exception or goes on after PWRSAV (R150, D26).
Model's choices: notes/assumptions/45. -/
def Obligations.EnabledSourceWakes : Prop :=
  ∀ s : State, s.mode ≠ .run →
    ((∃ n, s.implemented n = true ∧ s.ifsBit n = true ∧ s.iecBit n = true ∧ 1 ≤ (s.ipcOf n).toNat) ∨
      (∃ t, s.trapDeliverable t = true)) →
    step s = step { s with mode := .run }

/-- Execution at an unimplemented program address raises the address error, which resets the device where it conflicts, and the
program counter stays; the step's log has it, against an oscillator failure of the same step (R56, R131, R127).
Model's choices: notes/assumptions/17 and 37. -/
def Obligations.UnimplementedPcRaisesAddressError : Prop :=
  ∀ s : State, s.mode = .run → s.winner = none → s.dev.progAt s.pc = false →
    (s.addrErrorFree → ∃ u : State, step s = .next u.tickDisi.environment ∧
      u.intcon1 = s.intcon1 ||| 0x0008 ∧ u.addrLogged ∧
      u = { s with intcon1 := u.intcon1, gieLag := s.gieLag - 1, skid := 0, log := u.log }) ∧
    (¬s.addrErrorFree → ∃ u : State, step s = .next u.tickDisi.environment ∧ s.conflictReset u)

/-! ### Arbitration -/

/-- The table of trap sources: the flag that requests each, its vector number 0 to 6, its level 15 down to 10 and 9 or 8, and
its class (R101, R102; the level of the generic soft trap is the device's). No two have one level.
Model's choices: notes/assumptions/13. -/
def Obligations.TrapSourceTable : Prop :=
  ∀ s : State,
    (∀ t, s.trapRequest t = true ↔
      match t with
      | .oscillator => s.intcon1.getLsbD 1 = true
      | .address => s.intcon1.getLsbD 3 = true
      | .genericHard => s.intcon4 ≠ 0
      | .stack => s.intcon1.getLsbD 2 = true
      | .math => s.intcon1.getLsbD 4 = true
      | .dmac => s.intcon1.getLsbD 5 = true
      | .genericSoft => s.intcon3 ≠ 0) ∧
    (∀ t : Trap, (t.vector, t.level s.dev) =
      match t with
      | .oscillator => (0, 15)
      | .address => (1, 14)
      | .genericHard => (2, 13)
      | .stack => (3, 12)
      | .math => (4, 11)
      | .dmac => (5, 10)
      | .genericSoft => (6, if s.dev.gstIs8 then 8 else 9)) ∧
    (∀ t : Trap, t.hard = true ↔ t = .oscillator ∨ t = .address ∨ t = .genericHard) ∧
    (∀ t : Trap, t.hard = true ↔ 13 ≤ t.level s.dev) ∧
    (∀ t u : Trap, t.level s.dev = u.level s.dev → t = u) ∧
    (∀ t : Trap, Trap.all[t.vector]? = some t)

/-- The winner at a boundary: "the deliverable trap of highest level, if any trap is deliverable; otherwise the deliverable
interrupt with the highest IPC[n], and among those the lowest n; otherwise none" (R109). -/
def Obligations.WinnerIsHighestDeliverable : Prop :=
  ∀ s : State,
    (∀ t, s.winner = some (.trap t) ↔
      (s.trapRequest t = true ∧ s.cpuIpl < t.level s.dev) ∧
      ∀ u, s.trapRequest u = true → s.cpuIpl < u.level s.dev → u.level s.dev ≤ t.level s.dev) ∧
    (∀ n, s.winner = some (.irq n) ↔
      (∀ t, s.trapRequest t = true → t.level s.dev ≤ s.cpuIpl) ∧
      (s.implemented n = true ∧ s.ifsBit n = true ∧ s.iecBit n = true ∧ s.effIpl < (s.ipcOf n).toNat ∧
        ¬(s.disi = true ∧ (s.ipcOf n).toNat ≤ 6)) ∧
      ∀ m, s.implemented m = true → s.ifsBit m = true → s.iecBit m = true → s.effIpl < (s.ipcOf m).toNat →
        ¬(s.disi = true ∧ (s.ipcOf m).toNat ≤ 6) →
        (s.ipcOf m).toNat < (s.ipcOf n).toNat ∨ ((s.ipcOf m).toNat = (s.ipcOf n).toNat ∧ n ≤ m))

/-- What is taken lies above the CPU priority (R105), so in a routine of level L no interrupt of level L or below is taken,
whatever its natural order (R124). -/
def Obligations.WinnerIsAboveCpuPriority : Prop :=
  ∀ (s : State) (e : Exc), s.winner = some e →
    s.cpuIpl < e.level s ∧ (∀ n, e = .irq n → s.effIpl < (s.ipcOf n).toNat ∧ s.cpuIpl < 7)

/-- "While INTCON2.DISI = 1 interrupts of level 1 to 6 cannot be taken; level 7 and traps can" (R107): DISI changes neither the
deliverability of an interrupt of level 7 nor that of a trap. -/
def Obligations.DisiHoldsOffLevelsOneToSix : Prop :=
  ∀ s : State, s.disi = true →
    (∀ n, (s.ipcOf n).toNat ≤ 6 → s.winner ≠ some (.irq n)) ∧
    (∀ n, (s.ipcOf n).toNat = 7 →
      (s.irqDeliverable n = true ↔
        s.implemented n = true ∧ s.ifsBit n = true ∧ s.iecBit n = true ∧ s.effIpl < 7)) ∧
    (∀ t, s.trapDeliverable t = true ↔ s.trapRequest t = true ∧ s.cpuIpl < t.level s.dev)

/-- While the controller sees GIE = 0 it takes no interrupt, every trap as before, and SR.IPL stands; with GIE seen as 1 it acts
on CPUIPL (R106). A write of GIE is SfrWriteIntcon2. -/
def Obligations.GieGatesInterruptsOnly : Prop :=
  ∀ s : State,
    (s.gie = false → s.gieLag = 0 →
      s.effIpl = max s.cpuIpl 7 ∧ (∀ n, s.winner ≠ some (.irq n)) ∧
      ∀ t, s.trapDeliverable t = true ↔ s.trapRequest t = true ∧ s.cpuIpl < t.level s.dev) ∧
    (s.gie = true ∨ 0 < s.gieLag → s.effIpl = s.cpuIpl)

/-- After any device reset no interrupt is taken while every IEC bit is 0, although GIE = 1, CPUIPL = 0 and every source is at
level 4; and any trap requested then can be taken (R36). -/
def Obligations.NoInterruptAfterReset : Prop :=
  ∀ (c : ResetCause) (s0 : State), ∀ r ∈ [State.reset, s0.deviceReset c],
    r.gie = true ∧ r.cpuIpl = 0 ∧ (∀ n, n < 246 → r.ipcOf n = 4) ∧ (∀ n, r.iecBit n = false) ∧
    (∀ u : State, u.iec = r.iec → ∀ n, u.winner ≠ some (.irq n)) ∧
    (∀ u : State, u.sr = r.sr → u.corcon = r.corcon → ∀ t, u.trapRequest t = true → u.trapDeliverable t = true)

/-- The CPU priority level is `CORCON.IPL3 : SR.IPL<2:0>`, 0 to 15; at IPL<2:0> = 111 with IPL3 = 0 user interrupts are disabled
(R14). -/
def Obligations.CpuPriorityIsIpl3ThenIpl : Prop :=
  ∀ s : State,
    s.cpuIpl = (BitVec.ofBool (s.corcon.getLsbD 3) ++ s.sr.extractLsb' 5 3).toNat ∧ s.cpuIpl ≤ 15 ∧
    (s.sr.extractLsb' 5 3 = 0b111#3 → s.corcon.getLsbD 3 = false → ∀ n, s.winner ≠ some (.irq n))

/-! ### Taking an exception and returning from one -/

/-- The vector address: the Auxiliary Interrupt Vector from Auxiliary Flash, else the AIVT where all three of its conditions
hold, else the IVT; with the default base and distance (D2), vector v is at 0x000004 + 2v (R118, R65, R63). The configuration
enables the AIVT with a Boot Segment of at least two pages and AIVTDIS at its enabling value (R63, R30), and the vector is the
24-bit word of three bytes of program memory there (R64).
Model's choices: notes/assumptions/3, 13 and 59. -/
def Obligations.VectorAddressSelection : Prop :=
  ∀ (s : State) (v : Nat),
    (s.dev.hasAux = true → s.dev.inAuxFlash s.pc = true → s.vectorAddress v = some s.dev.auxVector) ∧
    ((s.dev.hasAux = true → s.dev.inAuxFlash s.pc = false) →
      (∀ b, s.dev.hasAivt = true → s.dev.aivtConfigEnabled = true → s.intcon2.getLsbD 8 = true →
        s.dev.aivtBase = some b → s.vectorAddress v = some (b + s.dev.vecStride * BitVec.ofNat 24 v)) ∧
      (¬(s.dev.hasAivt = true ∧ s.dev.aivtConfigEnabled = true ∧ s.intcon2.getLsbD 8 = true) →
        s.vectorAddress v = some (s.dev.ivtBase + s.dev.vecStride * BitVec.ofNat 24 v) ∧
        (s.dev.ivtBase = 0x000004 → s.dev.vecStride = 2 → v < 254 →
          ∃ a, s.vectorAddress v = some a ∧ a.toNat = 4 + 2 * v))) ∧
    (s.dev.aivtConfigEnabled = true ↔ 2 ≤ (~~~s.dev.bslim).toNat ∧ s.dev.aivtdis = s.dev.aivtdisEnables) ∧
    (∀ p : PAddr, ∀ k, k < 3 →
      (s.progWord p).extractLsb' (8 * k) 8 = (Memory.get s.prog (2 * p.toNat + k)).getD 0xFF)

/-- Taking a trap whose frame can be pushed and whose vector word is good: the frame, the new priority, INTTREG, the register
set and the PC are as R115 to R120 say, and nothing else changes, no request among it (R121). Inside a DO loop this is said of
the DO stack overflow's own trap, the others being refused (EntryRefusals); EntryOnBadStack is the frame that cannot be pushed.
Model's choices: notes/assumptions/13, 19, 25, 43 and 59. -/
def Obligations.TrapEntryResult : Prop :=
  ∀ (s : State) (e : Trap) (a : PAddr), s.framePushable →
    (s.corcon.extractLsb' 8 3 = 0 ∨ (e = .genericSoft ∧ s.intcon3.getLsbD 4 = true)) → s.vectorAddress e.vector = some a →
    (s.progWord a).getLsbD 0 = false → (s.progWord a).getLsbD 23 = false →
    ∃ t, s.takeException (.trap e) = .next t ∧ t.pc = s.progWord a ∧ t.w15 = s.w15 + 4 ∧
      t.ramWord s.w15 = s.pc.extractLsb' 1 15 ++ BitVec.ofBool (s.corcon.getLsbD 2) ∧
      t.ramWord (s.w15 + 2) = s.sr.extractLsb' 0 8 ++ BitVec.ofBool (s.corcon.getLsbD 3) ++ s.pc.extractLsb' 16 7 ∧
      (∀ b, offWord s.w15 b → offWord (s.w15 + 2) b → t.ramByte b = s.ramByte b) ∧
      t.corcon.getLsbD 2 = false ∧ t.corcon &&& 0xFFF3 = s.corcon &&& 0xFFF3 ∧ t.sr &&& 0xFF1F = s.sr &&& 0xFF1F ∧
      s.entersTrap t e ∧ t.inttreg &&& 0xF000 = 0 ∧
      t.ctxStack = (if s.dev.hasAltW then s.activeCtx :: s.ctxStack else s.ctxStack) ∧
      stackFlag s.intcon1 t.intcon1 (s.overLimit s.w15 ∨ s.overLimit (s.w15 + 2) ∨ t.w15 < 0x1000) ∧
      t.quiet ∧ t = { s with
        pc := t.pc, w15 := t.w15, ram := t.ram, corcon := t.corcon, sr := t.sr, inttreg := t.inttreg
        intcon1 := t.intcon1, ctxStack := t.ctxStack, skid := 0, mode := .run, free := t.free, log := t.log }

/-- Taking an interrupt whose frame can be pushed and whose vector word is good (R115 to R121): the priority becomes the
source's level, or 7 with NSTDIS = 1; VECNUM is its number; the set whose CTXT field, FALTREG<2:0> or FALTREG<6:4>, codes its
level becomes active (R26), and W0 to W14 are read from it where it replaces them (R11, R119). Inside a DO loop it is refused
(EntryRefusals).
Model's choices: notes/assumptions/13, 19, 25 and 59. -/
def Obligations.InterruptEntryResult : Prop :=
  ∀ (s : State) (n : Nat) (a : PAddr), n < 246 → s.framePushable → s.corcon.extractLsb' 8 3 = 0 →
    s.ctxRefusal (.irq n) = none →
    s.vectorAddress (n + 8) = some a → (s.progWord a).getLsbD 0 = false → (s.progWord a).getLsbD 23 = false →
    ∃ t, s.takeException (.irq n) = .next t ∧ t.pc = s.progWord a ∧ t.w15 = s.w15 + 4 ∧
      t.ramWord s.w15 = s.pc.extractLsb' 1 15 ++ BitVec.ofBool (s.corcon.getLsbD 2) ∧
      t.ramWord (s.w15 + 2) = s.sr.extractLsb' 0 8 ++ BitVec.ofBool (s.corcon.getLsbD 3) ++ s.pc.extractLsb' 16 7 ∧
      (∀ b, offWord s.w15 b → offWord (s.w15 + 2) b → t.ramByte b = s.ramByte b) ∧
      t.corcon.getLsbD 2 = false ∧ t.corcon &&& 0xFFFB = s.corcon &&& 0xFFFB ∧
      t.sr &&& 0xFF1F = s.sr &&& 0xFF1F ∧ s.entersIrq t n ∧ t.inttreg &&& 0xF000 = 0 ∧
      t.ctxStack = (if s.dev.hasAltW then s.activeCtx :: s.ctxStack else s.ctxStack) ∧
      stackFlag s.intcon1 t.intcon1 (s.overLimit s.w15 ∨ s.overLimit (s.w15 + 2) ∨ t.w15 < 0x1000) ∧
      t.quiet ∧ t = { s with
        pc := t.pc, w15 := t.w15, ram := t.ram, corcon := t.corcon, sr := t.sr, inttreg := t.inttreg
        intcon1 := t.intcon1, activeCtx := t.activeCtx, ctxStack := t.ctxStack, skid := 0, mode := .run
        log := t.log }

/-- Taking an exception with an odd or unimplemented stack: each word that cannot be pushed raises the address error and is not
written (R53, R55, R59, R133), W15 goes up by 4 all the same, and the entry is made, or the device resets where the address
error conflicts (R127); a word that can be pushed is. Priority, INTTREG and register set are as in the two statements above. An
address error raised by the entry is judged by the priority before it.
Model's choices: notes/assumptions/13, 17, 19, 21, 25, 38 and 59. -/
def Obligations.EntryOnBadStack : Prop :=
  ∀ (s : State) (e : Exc) (a : PAddr), s.entryRefusal e = none → s.vectorAddress e.vector = some a →
    (s.progWord a).getLsbD 0 = false → (s.progWord a).getLsbD 23 = false →
    (s.badAccess .word s.w15 = true ∨ s.badAccess .word (s.w15 + 2) = true) →
    (s.badAccess .word s.w15 = true ∨ s.ramWordAt s.w15) →
    (s.badAccess .word (s.w15 + 2) = true ∨ s.ramWordAt (s.w15 + 2)) →
    (s.addrErrorFree → ∃ t, s.takeException e = .next t ∧ t.pc = s.progWord a ∧ t.w15 = s.w15 + 4 ∧
      t.intcon1.getLsbD 3 = true ∧ t.intcon1 &&& 0xFFF3 = s.intcon1 &&& 0xFFF3 ∧
      (t.intcon1.getLsbD 2 = true ↔
        s.intcon1.getLsbD 2 = true ∨ s.overLimit s.w15 ∨ s.overLimit (s.w15 + 2) ∨ t.w15 < 0x1000) ∧
      (s.badAccess .word s.w15 = false →
        t.ramWord s.w15 = s.pc.extractLsb' 1 15 ++ BitVec.ofBool (s.corcon.getLsbD 2)) ∧
      (s.badAccess .word (s.w15 + 2) = false →
        t.ramWord (s.w15 + 2) = s.sr.extractLsb' 0 8 ++ BitVec.ofBool (s.corcon.getLsbD 3) ++ s.pc.extractLsb' 16 7) ∧
      (∀ b, (s.badAccess .word s.w15 = true ∨ offWord s.w15 b) →
        (s.badAccess .word (s.w15 + 2) = true ∨ offWord (s.w15 + 2) b) → t.ramByte b = s.ramByte b) ∧
      t.corcon.getLsbD 2 = false ∧ t.corcon &&& 0xFFF3 = s.corcon &&& 0xFFF3 ∧ t.sr &&& 0xFF1F = s.sr &&& 0xFF1F ∧
      (∀ tr, e = .trap tr → s.entersTrap t tr) ∧ (∀ n, e = .irq n → s.entersIrq t n) ∧
      t.inttreg &&& 0xF000 = 0 ∧
      t.ctxStack = (if s.dev.hasAltW then s.activeCtx :: s.ctxStack else s.ctxStack) ∧ t.addrLogged ∧
      t = { s with
        pc := t.pc, w15 := t.w15, ram := t.ram, corcon := t.corcon, sr := t.sr, inttreg := t.inttreg
        intcon1 := t.intcon1, activeCtx := t.activeCtx, ctxStack := t.ctxStack, skid := 0, mode := .run
        free := t.free, log := t.log }) ∧
    (¬s.addrErrorFree → ∃ t, s.takeException e = .next t ∧ s.conflictReset t)

/-- Where the model refuses an entry, by name: inside a DO loop, but for the trap of a DO stack overflow
(93_implementation_defined.md section 2 row 21, R88, R145); a vector word with bit 0 or bit 23 set, erased ones among them
(R118, D34); an AIVT without a base (D22); and for an interrupt CTXT1 = CTXT2, a level being assigned, and NSTDIS = 1 with a
level assigned (R119, R194, D15), CTXT1 and CTXT2 being FALTREG<2:0> and FALTREG<6:4> (R26), and no other setting of them; and
a frame word that would change INTCON2.DISI, the stack being on INTCON2 (D11).
Model's choices: notes/assumptions/25, 46, 58 and 59. -/
def Obligations.EntryRefusals : Prop :=
  ∀ (s : State) (e : Exc),
    (s.corcon.extractLsb' 8 3 ≠ 0 → ¬(e = .trap .genericSoft ∧ s.intcon3.getLsbD 4 = true) →
      s.takeException e = .refused .doInterrupted) ∧
    (s.corcon.extractLsb' 8 3 = 0 ∨ (e = .trap .genericSoft ∧ s.intcon3.getLsbD 4 = true) →
      s.entryRefusal e = s.ctxRefusal e) ∧
    (∀ a, s.entryRefusal e = none → s.vectorAddress e.vector = some a →
      (s.progWord a).getLsbD 0 = true ∨ (s.progWord a).getLsbD 23 = true →
      s.takeException e = .refused (.malformedVector (s.progWord a))) ∧
    (s.entryRefusal e = none → (s.dev.hasAux = true → s.dev.inAuxFlash s.pc = false) → s.dev.hasAivt = true →
      s.dev.aivtConfigEnabled = true → s.intcon2.getLsbD 8 = true → s.dev.aivtBase = none →
      s.takeException e = .refused .aivtBaseMissing) ∧
    (∀ n, e = .irq n → s.dev.hasAltW = true → s.corcon.extractLsb' 8 3 = 0 →
      (s.dev.faltreg.extractLsb' 0 3 = s.dev.faltreg.extractLsb' 4 3 → s.dev.faltreg.extractLsb' 0 3 ≠ 7 →
        s.takeException e = .refused .contextClash) ∧
      (s.dev.faltreg.extractLsb' 0 3 ≠ s.dev.faltreg.extractLsb' 4 3 → s.intcon1.getLsbD 15 = true →
        s.takeException e = .refused .contextNoNesting)) ∧
    (∀ n, e = .irq n →
      s.dev.hasAltW = false ∨ (s.dev.faltreg.extractLsb' 0 3 = 7 ∧ s.dev.faltreg.extractLsb' 4 3 = 7) ∨
        (s.dev.faltreg.extractLsb' 0 3 ≠ s.dev.faltreg.extractLsb' 4 3 ∧ s.intcon1.getLsbD 15 = false) →
      s.ctxRefusal e = none) ∧
    (∀ t, e = .trap t → s.ctxRefusal e = none) ∧
    (∀ a, s.entryRefusal e = none → s.vectorAddress e.vector = some a →
      (s.progWord a).getLsbD 0 = false → (s.progWord a).getLsbD 23 = false →
      (s.badAccess .word s.w15 = false → s.dev.sfrAt s.w15 = some .intcon2 →
        s.pc.getLsbD 14 ≠ s.intcon2.getLsbD 14 → s.takeException e = .refused .disiBitWrite) ∧
      (s.ramWordAt s.w15 → s.badAccess .word (s.w15 + 2) = false → s.dev.sfrAt (s.w15 + 2) = some .intcon2 →
        s.sr.getLsbD 6 ≠ s.intcon2.getLsbD 14 → s.takeException e = .refused .disiBitWrite))

/-- RETFIE over a frame that can be popped (R81): SRL, IPL3, SFA, PC and the register set come back, W15 goes down by 4, the
upper byte of SR, INTTREG and every request stay.
Model's choices: notes/assumptions/13. -/
def Obligations.RetfieResult : Prop :=
  ∀ s : State, s.framePoppable →
    ∃ t, exec .retfie s = .next t ∧ t.w15 = s.w15 - 4 ∧
      t.pc = 0#1 ++ (s.ramWord (s.w15 - 2)).extractLsb' 0 7 ++ (s.ramWord (s.w15 - 4)).extractLsb' 1 15 ++ 0#1 ∧
      t.sr = s.sr.extractLsb' 8 8 ++ (s.ramWord (s.w15 - 2)).extractLsb' 8 8 ∧
      t.corcon.getLsbD 3 = (s.ramWord (s.w15 - 2)).getLsbD 7 ∧
      t.corcon.getLsbD 2 = (s.ramWord (s.w15 - 4)).getLsbD 0 ∧ t.corcon &&& 0xFFF3 = s.corcon &&& 0xFFF3 ∧
      s.restoresCtx t ∧
      stackFlag s.intcon1 t.intcon1 (s.overLimit (s.w15 - 2) ∨ s.overLimit (s.w15 - 4) ∨ t.w15 < 0x1000) ∧
      t.quiet ∧ t = { s with
        w15 := t.w15, pc := t.pc, sr := t.sr, corcon := t.corcon, activeCtx := t.activeCtx, ctxStack := t.ctxStack
        intcon1 := t.intcon1, log := t.log }

/-- RETFIE and RETURN over an odd or unimplemented stack: a pop that cannot be made raises the address error and gives a free
word, or the device resets where the error conflicts; W15 goes down by 4, data memory and the upper byte of SR stay, RETFIE
restores the register set all the same, and a word that can be popped is used, INTCON1, whose ADDRERR the first pop may have
set, apart (R81, R91, R53, R55, R127, R133).
Model's choices: notes/assumptions/17, 19, 21 and 22. -/
def Obligations.ReturnsFromBadStack : Prop :=
  ∀ (s : State) (i : Instr), (i = .retfie ∨ i = .ret) →
    (s.badAccess .word (s.w15 - 2) = true ∨ s.badAccess .word (s.w15 - 4) = true) →
    (s.addrErrorFree → ∃ t, exec i s = .next t ∧ t.w15 = s.w15 - 4 ∧ t.intcon1.getLsbD 3 = true ∧
      t.intcon1 &&& 0xFFF3 = s.intcon1 &&& 0xFFF3 ∧
      (t.intcon1.getLsbD 2 = true ↔
        s.intcon1.getLsbD 2 = true ∨ s.overLimit (s.w15 - 2) ∨ s.overLimit (s.w15 - 4) ∨ t.w15 < 0x1000) ∧
      t.pc.getLsbD 0 = false ∧ t.pc.getLsbD 23 = false ∧ t.corcon &&& 0xFFF3 = s.corcon &&& 0xFFF3 ∧
      (s.badAccess .word (s.w15 - 2) = false →
        t.pc.extractLsb' 16 7 = (s.loadWord (s.w15 - 2)).extractLsb' 0 7 ∧
        (i = .retfie → t.sr = s.sr.extractLsb' 8 8 ++ (s.loadWord (s.w15 - 2)).extractLsb' 8 8 ∧
          t.corcon.getLsbD 3 = (s.loadWord (s.w15 - 2)).getLsbD 7)) ∧
      (s.badAccess .word (s.w15 - 4) = false → s.dev.sfrAt (s.w15 - 4) ≠ some .intcon1 →
        t.pc.extractLsb' 1 15 = (s.loadWord (s.w15 - 4)).extractLsb' 1 15 ∧
        (i = .retfie → t.corcon.getLsbD 2 = (s.loadWord (s.w15 - 4)).getLsbD 0)) ∧
      t.sr.extractLsb' 8 8 = s.sr.extractLsb' 8 8 ∧ (i = .retfie → s.restoresCtx t) ∧ t.addrLogged ∧
      (i = .ret → t.sr = s.sr ∧ t.corcon.getLsbD 3 = s.corcon.getLsbD 3 ∧ t.activeCtx = s.activeCtx ∧
        t.ctxStack = s.ctxStack) ∧
      t = { s with
        pc := t.pc, w15 := t.w15, sr := t.sr, corcon := t.corcon, intcon1 := t.intcon1, activeCtx := t.activeCtx
        ctxStack := t.ctxStack, free := t.free, log := t.log }) ∧
    (¬s.addrErrorFree → ∃ t, exec i s = .next t ∧ s.conflictReset t)

/-- RETFIE undoes an entry: after any exception taken with a frame that can be pushed, from an even PC below 0x800000, it
returns to the same PC, SR, CORCON, W15 and register set, and everything else but the stacked frame, INTTREG, STKERR and the
skid count is as before the entry (R122, R115, R81).
Model's choices: notes/assumptions/13. -/
def Obligations.ReturnUndoesEntry : Prop :=
  ∀ (s t : State) (e : Exc), s.framePushable → s.pc.getLsbD 0 = false → s.pc.getLsbD 23 = false →
    s.takeException e = .next t →
    ∃ u, exec .retfie t = .next u ∧
      u = { s with
        ram := u.ram, inttreg := u.inttreg, intcon1 := u.intcon1, skid := 0, mode := .run, free := u.free
        log := u.log } ∧ u.quiet ∧
      u.intcon1 &&& 0xFFFB = s.intcon1 &&& 0xFFFB ∧
      ∀ b, offWord s.w15 b → offWord (s.w15 + 2) b → u.ramByte b = s.ramByte b

/-! ### Interrupt control instructions -/

/-- "As a program instruction NOP changes no state but pc <- pc + 2" (R84); PWRSAV #0 enters Sleep and PWRSAV #1 Idle, with the
PC at the instruction after it (R83). -/
def Obligations.NopAndPwrsavResult : Prop :=
  ∀ s : State,
    exec .nop s = .next { s with pc := s.pc + 2 } ∧
    exec (.pwrsav .sleep) s = .next { s with mode := .sleep, pc := s.pc + 2 } ∧
    exec (.pwrsav .idle) s = .next { s with mode := .idle, pc := s.pc + 2 }

/-- DISI #lit14: DISICNT takes the literal, INTCON2.DISI says whether it is not 0, and nothing else changes (R80). At the end
of a step that did not load it, DISICNT goes down by at least one while INTCON2.DISI = 1, never below 0, and INTCON2.DISI is
cleared exactly when it reaches 0; while INTCON2.DISI = 0 nothing counts (R80, D10).
Model's choices: notes/assumptions/11. -/
def Obligations.DisiLoadsAndCountsDown : Prop :=
  ∀ s : State,
    (∀ lit14 : BitVec 14,
      ∃ t, exec (.disi lit14) s = .next t ∧ t.pc = s.pc + 2 ∧ t.disicnt = lit14 ∧
        (t.intcon2.getLsbD 14 = true ↔ lit14 ≠ 0) ∧ t.intcon2 &&& 0xBFFF = s.intcon2 &&& 0xBFFF ∧
        t.log = { s.log with disiLoad := true } ∧
        t = { s with pc := t.pc, disicnt := t.disicnt, intcon2 := t.intcon2, log := t.log }) ∧
    (s.disi = false → s.tickDisi = s) ∧ (s.log.disiLoad = true → s.tickDisi = s) ∧
    (s.disi = true → s.log.disiLoad = false →
      (∃ c, 1 ≤ c ∧ s.tickDisi.disicnt.toNat = s.disicnt.toNat - c) ∧
      (s.tickDisi.disi = true ↔ s.tickDisi.disicnt ≠ 0) ∧ s.tickDisi.intcon2 &&& 0xBFFF = s.intcon2 &&& 0xBFFF ∧
      s.tickDisi = { s with disicnt := s.tickDisi.disicnt, intcon2 := s.tickDisi.intcon2, free := s.tickDisi.free })

/-- RESET: every register that R35 gives a reset value has it, the PC is 0, or the device's Reset location in Auxiliary Flash
where it has one (R184), program memory, device, environment and pins stay, and TRAPR is not set by it (R82, R180, R35; DISICNT
and the hidden variables by D24).
Model's choices: notes/assumptions/42. -/
def Obligations.ResetResult : Prop :=
  ∀ s : State,
    ∃ t, exec .reset s = .next t ∧ s.resetTo t ∧ t.giePipe = true ∧
      (t.rcon.getLsbD 15 = true → s.rcon.getLsbD 15 = true)

/-! ### Control transfers and loops -/

/-- GOTO and BRA: the PC becomes the target; an unimplemented one also raises the address error, or resets the device where that
conflicts (R89, R90, R72, R127).
Model's choices: notes/assumptions/17, 23 and 37. -/
def Obligations.GotoAndBraResult : Prop :=
  ∀ (s : State) (i : Instr) (target : PAddr),
    ((∃ tgt, i = .goto tgt ∧ target = tgt.zeroExtend 24) ∨
      (∃ n, i = .bra n ∧ target = s.pc + 2 + 2 * n.signExtend 24)) →
    (s.dev.progAt target = true →
      ∃ t, exec i s = .next t ∧ t.quiet ∧ t = { s with pc := target, log := t.log }) ∧
    (s.dev.progAt target = false → s.addrErrorFree →
      ∃ t, exec i s = .next t ∧ t.addrLogged ∧
        t = { s with pc := target, intcon1 := s.intcon1 ||| 0x0008, log := t.log }) ∧
    (s.dev.progAt target = false → ¬s.addrErrorFree → ∃ t, exec i s = .next t ∧ s.conflictReset t)

/-- RETURN over a frame that can be popped: the PC comes from the two words, W15 goes down by 4, SRL and IPL3 stay, and no
CORCON bit but SFA can change (R91).
Model's choices: notes/assumptions/22. -/
def Obligations.ReturnResult : Prop :=
  ∀ s : State, s.framePoppable →
    ∃ t, exec .ret s = .next t ∧ t.w15 = s.w15 - 4 ∧
      t.pc = 0#1 ++ (s.ramWord (s.w15 - 2)).extractLsb' 0 7 ++ (s.ramWord (s.w15 - 4)).extractLsb' 1 15 ++ 0#1 ∧
      t.corcon &&& 0xFFFB = s.corcon &&& 0xFFFB ∧
      (t.corcon.getLsbD 2 = s.corcon.getLsbD 2 ∨ t.corcon.getLsbD 2 = (s.ramWord (s.w15 - 4)).getLsbD 0) ∧
      stackFlag s.intcon1 t.intcon1 (s.overLimit (s.w15 - 2) ∨ s.overLimit (s.w15 - 4) ∨ t.w15 < 0x1000) ∧
      t.quiet ∧ t = { s with
        w15 := t.w15, pc := t.pc, corcon := t.corcon, intcon1 := t.intcon1, free := t.free, log := t.log }

/-- DO: on a full DO stack DOOVR is set and nothing else but the PC changes (R88, R145); below that the nesting level rises by
one and one DO stack entry is written, in the model's form; a level above 4, which no run reaches, becomes free; SR bits
outside IPL are free after a DO that is no overflow.
Model's choices: notes/assumptions/15, 23 and 24. -/
def Obligations.DoResult : Prop :=
  ∀ (s : State) (count : Word) (stop : PAddr), s.dev.hasDsp = true →
    (s.corcon.extractLsb' 8 3 = 0b100#3 →
      exec (.doLoop count stop) s = .next { s with intcon3 := s.intcon3 ||| 0x0010, pc := s.pc + 2 }) ∧
    (∀ k : Fin 4, (s.corcon.extractLsb' 8 3).toNat = k.val →
      ∃ t, exec (.doLoop count stop) s = .next t ∧ (t.corcon.extractLsb' 8 3).toNat = k.val + 1 ∧
        t.corcon &&& 0xF8FF = s.corcon &&& 0xF8FF ∧ t.doStack[k] = ⟨count, s.pc + 2, stop⟩ ∧
        (∀ j : Fin 4, j ≠ k → t.doStack[j] = s.doStack[j]) ∧ t.sr &&& 0x00E0 = s.sr &&& 0x00E0 ∧
        t = { s with pc := s.pc + 2, corcon := t.corcon, doStack := t.doStack, sr := t.sr, free := t.free }) ∧
    (4 < (s.corcon.extractLsb' 8 3).toNat →
      ∃ t, exec (.doLoop count stop) s = .next t ∧ t.corcon &&& 0xF8FF = s.corcon &&& 0xF8FF ∧
        t.sr &&& 0x00E0 = s.sr &&& 0x00E0 ∧
        t = { s with pc := s.pc + 2, corcon := t.corcon, sr := t.sr, free := t.free })

/-- The end of a DO loop's body: after the instruction at the innermost loop's last address has gone on to the next one, the PC
goes back to the loop's first instruction or the loop ends and DL goes down by one, by a free choice, SR.DA being free then;
anywhere else, and outside every loop, nothing happens (R88: DL and the DO stack are "automatically updated"; how is the
model's choice).
Model's choices: notes/assumptions/24. -/
def Obligations.LoopEndResult : Prop :=
  ∀ (s : State) (last : PAddr),
    (s.corcon.extractLsb' 8 3 = 0 ∨ 4 < (s.corcon.extractLsb' 8 3).toNat → s.loopEnd last = s) ∧
    ∀ k : Fin 4, (s.corcon.extractLsb' 8 3).toNat = k.val + 1 →
      (s.doStack[k].stop ≠ last ∨ s.pc ≠ last + 2 → s.loopEnd last = s) ∧
      (s.doStack[k].stop = last → s.pc = last + 2 →
        ∃ t, s.loopEnd last = t ∧ t.sr &&& 0xFDFF = s.sr &&& 0xFDFF ∧
          (Config.freeBool s.free = true → t = { s with pc := s.doStack[k].start, sr := t.sr, free := t.free }) ∧
          (Config.freeBool s.free = false → (t.corcon.extractLsb' 8 3).toNat = k.val ∧
            t.corcon &&& 0xF8FF = s.corcon &&& 0xF8FF ∧ t = { s with corcon := t.corcon, sr := t.sr, free := t.free }))

/-- A bit test that skips: the next instruction is skipped exactly if the tested bit has the wanted value, by a PC of PC + 4,
or of PC + 6 where it is an encoded GOTO, the one instruction of two words (R72), SR.IPL and every register and byte stay, and
a waiting request's count takes the skipped instruction in (R96, R97, R93, D8); an operand through W15 has the stack checks,
that of W15 below 0x1000 among them although W15 stays (R99).
Model's choices: notes/assumptions/15, 19, 31, 35 and 55. -/
def Obligations.BitTestSkipResult : Prop :=
  ∀ (s : State) (i : Instr) (want : Bool) (bit : Fin 16) (op : Operand) (past : PAddr),
    ((i = .btsc bit op ∧ want = false) ∨ (i = .btss bit op ∧ want = true)) →
    past = s.skipTarget →
    (∀ b, (∃ w, op = .direct w ∧ b = (s.readW w).getLsbD bit.val) ∨
        (∃ w, op = .indirect w ∧ s.badAccess .word (s.readW w) = false ∧
          b = (s.loadWord (s.readW w)).getLsbD bit.val) →
      ∃ t, exec i s = .next t ∧ t.sr &&& 0x00E0 = s.sr &&& 0x00E0 ∧
        (b = want → t.pc = past ∧ t.skid = if 0 < s.skid then s.skid + 1 else 0) ∧
        (b ≠ want → t.pc = s.pc + 2 ∧ t.skid = s.skid) ∧
        stackFlag s.intcon1 t.intcon1
          ((∃ w, op = .indirect w ∧ w.val = 15) ∧ (s.overLimit s.w15 ∨ s.w15 < 0x1000)) ∧
        t.quiet ∧ t = { s with pc := t.pc, sr := t.sr, skid := t.skid, intcon1 := t.intcon1, free := t.free, log := t.log }) ∧
    (∀ w, op = .paged w → s.dsrpag ≠ 0 → (s.readW w).getLsbD 0 = false →
      ∃ t, exec i s = .next t ∧ t.sr &&& 0x00E0 = s.sr &&& 0x00E0 ∧
        ((t.pc = past ∧ t.skid = if 0 < s.skid then s.skid + 1 else 0) ∨ (t.pc = s.pc + 2 ∧ t.skid = s.skid)) ∧
        stackFlag s.intcon1 t.intcon1 (w.val = 15 ∧ (s.overLimit s.w15 ∨ s.w15 < 0x1000)) ∧
        t.quiet ∧ t = { s with pc := t.pc, sr := t.sr, skid := t.skid, intcon1 := t.intcon1, free := t.free, log := t.log })

/-! ### DSP and arithmetic instructions -/

/-- SFTAC: a shift amount beyond ±16 sets SFTACERR and MATHERR and writes no accumulator; any other, ±16 among them, writes the
target accumulator only (R85, R138).
Model's choices: notes/assumptions/15 and 56. -/
def Obligations.SftacResult : Prop :=
  ∀ (s : State) (acc : AccSel) (amount : ShiftAmount) (k : Int), s.dev.hasDsp = true →
    (amount = .lit k ∨ ∃ w, amount = .reg w ∧ k = (s.readW w).toInt) →
    (k < -16 ∨ 16 < k →
      exec (.sftac acc amount) s = .next { s with intcon1 := s.intcon1 ||| 0x0090, pc := s.pc + 2 }) ∧
    (-16 ≤ k → k ≤ 16 →
      ∃ t, exec (.sftac acc amount) s = .next t ∧ (acc = .a → t.accB = s.accB) ∧ (acc = .b → t.accA = s.accA) ∧
        t.sr &&& 0x00E0 = s.sr &&& 0x00E0 ∧
        t = { s with pc := s.pc + 2, accA := t.accA, accB := t.accB, sr := t.sr, free := t.free })

/-- The divide instruction: in its first iteration a divisor of 0 sets DIV0ERR and MATHERR (R86, R137); nothing but its
destination registers, the SR bits outside IPL, the PC and, for a destination W15, STKERR changes besides.
Model's choices: notes/assumptions/15, 19 and 26. -/
def Obligations.DivideResult : Prop :=
  ∀ (s : State) (d : WReg) (first : Bool) (dsts : List WReg),
    ∃ t, exec (.div d first dsts) s = .next t ∧ s.onlyRegs t dsts ∧ t.sr &&& 0x00E0 = s.sr &&& 0x00E0 ∧
      (first = true → s.readW d = 0 → stackFlag (s.intcon1 ||| 0x0050) t.intcon1 (s.leftBelow False t)) ∧
      (first = false ∨ s.readW d ≠ 0 → stackFlag s.intcon1 t.intcon1 (s.leftBelow False t)) ∧
      t.quiet ∧ t = { s with
        pc := s.pc + 2, w := t.w, alt1 := t.alt1, alt2 := t.alt2, w15 := t.w15, sr := t.sr, intcon1 := t.intcon1
        free := t.free, log := t.log }

/-- "A model without that manual refuses programs that contain REPEAT" (R87). -/
def Obligations.RepeatIsRefused : Prop :=
  ∀ s : State, exec .repeatLoop s = .refused .repeatUndefined

/-- The MAC class with its X operand in implemented X space and its Y operand in implemented Y space: the target accumulator,
its destination registers and SR bits outside IPL change, and a trap flag is set only with its enable bit, as R92, R135 and
R136 say of the saturation modes: none with SATA (CORCON<7>), or SATB (CORCON<6>), at 0, else 31 bits with ACCSAT (CORCON<4>)
at 0 and 39 with it at 1 (R13).
Model's choices: notes/assumptions/15, 16, 19 and 27. -/
def Obligations.MacResult : Prop :=
  ∀ (s : State) (acc : AccSel) (x y : WReg) (dsts : List WReg), s.dev.hasDsp = true →
    s.badAccess .word (s.readW x) = false → s.dev.inY (s.readW x).toNat = false →
    s.badAccess .word (s.readW y) = false → s.dev.inY (s.readW y).toNat = true →
    ∃ t, exec (.macClass acc x y dsts) s = .next t ∧ s.onlyRegs t dsts ∧ t.sr &&& 0x00E0 = s.sr &&& 0x00E0 ∧
      (acc = .a → t.accB = s.accB) ∧ (acc = .b → t.accA = s.accA) ∧
      t.intcon1 &&& 0x87EB = s.intcon1 &&& 0x87EB ∧
      s.macFlags t acc ∧
      (t.intcon1.getLsbD 2 = true ↔
        s.intcon1.getLsbD 2 = true ∨ ((x.val = 15 ∨ y.val = 15) ∧ s.overLimit s.w15) ∨
          s.leftBelow (x.val = 15 ∨ y.val = 15) t) ∧
      t.quiet ∧ t = { s with
        pc := s.pc + 2, w := t.w, alt1 := t.alt1, alt2 := t.alt2, w15 := t.w15, sr := t.sr, intcon1 := t.intcon1
        accA := t.accA, accB := t.accB, free := t.free, log := t.log }

/-! ### Data accesses -/

/-- A bit manipulation instruction on a register, or through an even address on data memory, writes its bit of the operand and
nothing else; every other register and every other byte stays (R93, R52; that it writes one bit is the model's); STKERR is set
by the stack checks of a W15 used as a pointer or moved below 0x1000 (R99, R133). What it does to a special function register
is StoreToSfrIsSfrWrite.
Model's choices: notes/assumptions/15, 19 and 32. -/
def Obligations.BitManipulationResult : Prop :=
  ∀ (s : State) (size : Size) (bit : Fin 16) (w : WReg),
    (∃ (t : State) (b : Bool), exec (.bitManip size bit (.direct w)) s = .next t ∧
      t.readW w = setBit (s.readW w) bit.val b ∧ s.onlyRegs t [w] ∧ t.sr &&& 0x00E0 = s.sr &&& 0x00E0 ∧
      stackFlag s.intcon1 t.intcon1 (s.leftBelow False t) ∧
      t.quiet ∧ t = { s with
        pc := s.pc + 2, w := t.w, alt1 := t.alt1, alt2 := t.alt2, w15 := t.w15, sr := t.sr, intcon1 := t.intcon1
        free := t.free, log := t.log }) ∧
    ((s.readW w).getLsbD 0 = false → s.badAccess size (s.readW w) = false → s.dev.sfrAt (s.readW w) = none →
      ∃ (t : State) (b : Bool), exec (.bitManip size bit (.indirect w)) s = .next t ∧
        (∀ (a : Word) (i : Nat), i < 8 →
          (t.ramByte a).getLsbD i =
            if a = (if bit.val < 8 then s.readW w else s.readW w + 1) ∧ i = bit.val % 8 then b else (s.ramByte a).getLsbD i) ∧
        t.sr &&& 0x00E0 = s.sr &&& 0x00E0 ∧
        stackFlag s.intcon1 t.intcon1 (w.val = 15 ∧ (s.overLimit s.w15 ∨ s.w15 < 0x1000)) ∧
        t.quiet ∧ t = { s with
          pc := s.pc + 2, ram := t.ram, sr := t.sr, intcon1 := t.intcon1, free := t.free, log := t.log }) ∧
    ((s.readW w).getLsbD 0 = false → s.badAccess size (s.readW w) = false →
      (∃ r, s.dev.sfrAt (s.readW w) = some r ∧ r ≠ .intcon2) →
      ∃ t, exec (.bitManip size bit (.indirect w)) s = .next t)

/-- MOV.D between register pairs, from memory to a pair and from a pair to data memory, where no access raises the address
error: the double word is moved, of a pair W(2p) and W(2p + 1), and no other register and no other byte changes (R94).
Model's choices: notes/assumptions/15, 19, 31, 33 and 55. -/
def Obligations.MovDResult : Prop :=
  ∀ (s : State) (p q : Fin 8) (w : WReg),
    ((pairLow p).val = 2 * p.val ∧ (pairHigh p).val = 2 * p.val + 1) ∧
    (∃ t, exec (.movD (.pair p) (.pair q)) s = .next t ∧
      t.readW (pairLow q) = s.readW (pairLow p) ∧ t.readW (pairHigh q) = s.readW (pairHigh p) ∧
      s.onlyRegs t [pairLow q, pairHigh q] ∧ t.sr &&& 0x00E0 = s.sr &&& 0x00E0 ∧
      stackFlag s.intcon1 t.intcon1 (s.leftBelow False t) ∧
      t.quiet ∧ t = { s with
        pc := s.pc + 2, w := t.w, alt1 := t.alt1, alt2 := t.alt2, w15 := t.w15, sr := t.sr, intcon1 := t.intcon1
        free := t.free, log := t.log }) ∧
    (s.badAccess .word (s.readW w) = false → s.badAccess .word (s.readW w + 2) = false →
      ∃ t, exec (.movD (.indirect w) (.pair q)) s = .next t ∧
        t.readW (pairLow q) = s.loadWord (s.readW w) ∧ t.readW (pairHigh q) = s.loadWord (s.readW w + 2) ∧
        s.onlyRegs t [pairLow q, pairHigh q] ∧ t.sr &&& 0x00E0 = s.sr &&& 0x00E0 ∧
        stackFlag s.intcon1 t.intcon1
          ((w.val = 15 ∧ (s.overLimit s.w15 ∨ s.overLimit (s.w15 + 2) ∨ s.w15 = 0xFFFE)) ∨
            s.leftBelow (w.val = 15) t) ∧
        t.quiet ∧ t = { s with
          pc := s.pc + 2, w := t.w, alt1 := t.alt1, alt2 := t.alt2, w15 := t.w15, sr := t.sr, intcon1 := t.intcon1
          free := t.free, log := t.log }) ∧
    (s.ramWordAt (s.readW w) → s.ramWordAt (s.readW w + 2) →
      ∃ t, exec (.movD (.pair p) (.indirect w)) s = .next t ∧
        t.ramWord (s.readW w) = s.readW (pairLow p) ∧ t.ramWord (s.readW w + 2) = s.readW (pairHigh p) ∧
        (∀ b, offWord (s.readW w) b → offWord (s.readW w + 2) b → t.ramByte b = s.ramByte b) ∧
        t.sr &&& 0x00E0 = s.sr &&& 0x00E0 ∧
        stackFlag s.intcon1 t.intcon1
          (w.val = 15 ∧ (s.overLimit s.w15 ∨ s.overLimit (s.w15 + 2) ∨ s.w15 = 0xFFFE ∨ s.w15 < 0x1000)) ∧
        t.quiet ∧ t = { s with
          pc := s.pc + 2, ram := t.ram, sr := t.sr, intcon1 := t.intcon1, free := t.free, log := t.log }) ∧
    (s.dsrpag ≠ 0 → (s.readW w).getLsbD 0 = false →
      ∃ t, exec (.movD (.paged w) (.pair q)) s = .next t ∧ s.onlyRegs t [pairLow q, pairHigh q] ∧
        t.sr &&& 0x00E0 = s.sr &&& 0x00E0 ∧ t.intcon1 &&& 0xFFFB = s.intcon1 &&& 0xFFFB ∧
        t.quiet ∧ t = { s with
          pc := s.pc + 2, w := t.w, alt1 := t.alt1, alt2 := t.alt2, w15 := t.w15, sr := t.sr, intcon1 := t.intcon1
          free := t.free, log := t.log })

/-- TBLRDx: its destination register and the SR bits outside IPL are ExecInstr's; no other register, no byte of memory and no
other flag but STKERR for a pointer or a destination W15 changes (R95, D1).
Model's choices: notes/assumptions/15, 19 and 34. -/
def Obligations.TableReadResult : Prop :=
  ∀ (s : State) (ptr dst : WReg),
    ∃ t, exec (.tblrd ptr dst) s = .next t ∧ s.onlyRegs t [dst] ∧ t.sr &&& 0x00E0 = s.sr &&& 0x00E0 ∧
      stackFlag s.intcon1 t.intcon1 ((ptr.val = 15 ∧ s.overLimit s.w15) ∨ s.leftBelow (ptr.val = 15) t) ∧
      t.quiet ∧ t = { s with
        pc := s.pc + 2, w := t.w, alt1 := t.alt1, alt2 := t.alt2, w15 := t.w15, sr := t.sr, intcon1 := t.intcon1
        free := t.free, log := t.log }

/-- A push from a register to data memory: the word is written at W15, W15 goes up by 2, the overflow check is on the old W15
and the underflow check on the new one (R60, R99, R133). A pop where a word can be read: W15 goes down by 2, the register gets
the word there, the checks are on the new W15; a pop to W15 leaves the word in it.
Model's choices: notes/assumptions/19 and 36. -/
def Obligations.PushAndPopResult : Prop :=
  ∀ (s : State) (r : WReg),
    (s.ramWordAt s.w15 →
      ∃ t, exec (.w15Access (.push r)) s = .next t ∧ t.w15 = s.w15 + 2 ∧ t.ramWord s.w15 = s.readW r ∧
        (∀ b, offWord s.w15 b → t.ramByte b = s.ramByte b) ∧
        stackFlag s.intcon1 t.intcon1 (s.overLimit s.w15 ∨ t.w15 < 0x1000) ∧
        t.quiet ∧ t = { s with pc := s.pc + 2, w15 := t.w15, ram := t.ram, intcon1 := t.intcon1, log := t.log }) ∧
    (s.badAccess .word (s.w15 - 2) = false →
      ∃ t, exec (.w15Access (.pop r)) s = .next t ∧ t.readW r = s.loadWord (s.w15 - 2) ∧
        (r.val ≠ 15 → t.w15 = s.w15 - 2) ∧ s.onlyRegs t [r, 15] ∧
        stackFlag s.intcon1 t.intcon1 (s.overLimit (s.w15 - 2) ∨ t.w15 < 0x1000) ∧
        t.quiet ∧ t = { s with
          pc := s.pc + 2, w := t.w, alt1 := t.alt1, alt2 := t.alt2, w15 := t.w15, intcon1 := t.intcon1, log := t.log })

/-- A call pushes the address after it as the two words that RETURN pops, which brings it back (R99, R91, R60); a link pushes
W14, which takes the new W15, and opens a frame above it; an unlink takes W15 back to W14 and pops it. Each has the stack
checks of its accesses and of the W15 it leaves (R133); no CORCON bit but SFA can change.
Model's choices: notes/assumptions/19, 22 and 53. -/
def Obligations.StackFrameResult : Prop :=
  ∀ (s : State) (target : BitVec 23) (lit14 : BitVec 14),
    (s.framePushable →
      ∃ t, exec (.w15Access (.call target)) s = .next t ∧ t.pc = target.zeroExtend 24 ∧ t.w15 = s.w15 + 4 ∧
        (t.ramWord s.w15).extractLsb' 1 15 = (s.pc + 2).extractLsb' 1 15 ∧
        (t.ramWord (s.w15 + 2)).extractLsb' 0 7 = (s.pc + 2).extractLsb' 16 7 ∧
        (∀ b, offWord s.w15 b → offWord (s.w15 + 2) b → t.ramByte b = s.ramByte b) ∧
        t.corcon &&& 0xFFFB = s.corcon &&& 0xFFFB ∧
        stackFlag s.intcon1 t.intcon1 (s.overLimit s.w15 ∨ s.overLimit (s.w15 + 2) ∨ t.w15 < 0x1000) ∧
        t.quiet ∧ t = { s with
          pc := t.pc, w15 := t.w15, ram := t.ram, corcon := t.corcon, intcon1 := t.intcon1, free := t.free
          log := t.log } ∧
        ((s.pc + 2).getLsbD 0 = false → (s.pc + 2).getLsbD 23 = false →
          ∃ u, exec .ret t = .next u ∧ u.pc = s.pc + 2 ∧ u.w15 = s.w15)) ∧
    (s.ramWordAt s.w15 →
      ∃ t, exec (.w15Access (.link lit14)) s = .next t ∧ t.ramWord s.w15 = s.readW 14 ∧ t.readW 14 = s.w15 + 2 ∧
        t.w15 = s.w15 + 2 + lit14.zeroExtend 16 ∧ s.onlyRegs t [14, 15] ∧
        (∀ b, offWord s.w15 b → t.ramByte b = s.ramByte b) ∧ t.corcon &&& 0xFFFB = s.corcon &&& 0xFFFB ∧
        stackFlag s.intcon1 t.intcon1 (s.overLimit s.w15 ∨ t.w15 < 0x1000) ∧
        t.quiet ∧ t = { s with
          pc := s.pc + 2, w := t.w, alt1 := t.alt1, alt2 := t.alt2, w15 := t.w15, ram := t.ram, corcon := t.corcon
          intcon1 := t.intcon1, free := t.free, log := t.log }) ∧
    (s.badAccess .word (s.readW 14 - 2) = false →
      ∃ t, exec (.w15Access .unlink) s = .next t ∧ t.w15 = s.readW 14 - 2 ∧
        t.readW 14 = s.loadWord (s.readW 14 - 2) ∧ s.onlyRegs t [14, 15] ∧ t.corcon &&& 0xFFFB = s.corcon &&& 0xFFFB ∧
        stackFlag s.intcon1 t.intcon1 (s.overLimit (s.readW 14 - 2) ∨ t.w15 < 0x1000) ∧
        t.quiet ∧ t = { s with
          pc := s.pc + 2, w := t.w, alt1 := t.alt1, alt2 := t.alt2, w15 := t.w15, corcon := t.corcon
          intcon1 := t.intcon1, free := t.free, log := t.log })

/-- Moves through W15 with a displacement: the word or byte at W15 + displacement, with the overflow check on that address, the
wrap check on its carry past 0xFFFF and the underflow check on W15 (R99, R133); a word is stored with its low byte at the even
address (R52). What a read gives: of data memory its bytes, the low one of a word at the even address; of the register at an
address its value, or the half of it addressed (R52, R58), each bit of a source that the device lacks 0 (R24, R34) and DISICNT
extended by zeros (R27). A word access is bad at an odd address or where a byte of it is neither data memory nor a register's
(R53, R55).
Model's choices: notes/assumptions/19, 20, 36 and 51. -/
def Obligations.StackMoveResult : Prop :=
  ∀ (s : State) (disp : Word) (r : WReg) (ea : Word) (ovf : Prop), ea = s.w15 + disp →
    (ovf ↔ s.overLimit ea ∨ 0xFFFF < (s.w15.toNat : Int) + disp.toInt) →
    (s.badAccess .word ea = false →
      ∃ t, exec (.w15Access (.load .word disp r)) s = .next t ∧ t.readW r = s.loadWord ea ∧ s.onlyRegs t [r] ∧
        stackFlag s.intcon1 t.intcon1 (ovf ∨ t.w15 < 0x1000) ∧
        t.quiet ∧ t = { s with
          pc := s.pc + 2, w := t.w, alt1 := t.alt1, alt2 := t.alt2, w15 := t.w15, intcon1 := t.intcon1
          log := t.log }) ∧
    (s.badAccess .byte ea = false →
      ∃ t, exec (.w15Access (.load .byte disp r)) s = .next t ∧ (t.readW r).extractLsb' 0 8 = s.loadByte ea ∧
        s.onlyRegs t [r] ∧ stackFlag s.intcon1 t.intcon1 (ovf ∨ t.w15 < 0x1000) ∧
        t.quiet ∧ t = { s with
          pc := s.pc + 2, w := t.w, alt1 := t.alt1, alt2 := t.alt2, w15 := t.w15, intcon1 := t.intcon1
          free := t.free, log := t.log }) ∧
    (s.ramWordAt ea →
      ∃ t, exec (.w15Access (.store .word disp r)) s = .next t ∧ t.ramWord ea = s.readW r ∧
        t.ramByte ea = (s.readW r).extractLsb' 0 8 ∧ t.ramByte (ea + 1) = (s.readW r).extractLsb' 8 8 ∧
        (∀ b, offWord ea b → t.ramByte b = s.ramByte b) ∧
        stackFlag s.intcon1 t.intcon1 (ovf ∨ s.w15 < 0x1000) ∧
        t.quiet ∧ t = { s with pc := s.pc + 2, ram := t.ram, intcon1 := t.intcon1, log := t.log }) ∧
    (s.badAccess .byte ea = false → s.dev.sfrAt ea = none →
      ∃ t, exec (.w15Access (.store .byte disp r)) s = .next t ∧ t.ramByte ea = (s.readW r).extractLsb' 0 8 ∧
        (∀ b, b ≠ ea → t.ramByte b = s.ramByte b) ∧
        stackFlag s.intcon1 t.intcon1 (ovf ∨ s.w15 < 0x1000) ∧
        t.quiet ∧ t = { s with pc := s.pc + 2, ram := t.ram, intcon1 := t.intcon1, log := t.log }) ∧
    (∀ a v, Memory.get s.ram a.toNat = some v → s.ramByte a = v) ∧
    (∀ a, s.ramWord a = s.ramByte (a + 1) ++ s.ramByte a) ∧
    (∀ a, s.dev.sfrAt a = none → s.loadWord a = s.ramWord a ∧ s.loadByte a = s.ramByte a) ∧
    (∀ a x, s.dev.sfrAt a = some x → s.loadWord a = s.readSfr x ∧
      s.loadByte a = if a.getLsbD 0 then (s.readSfr x).extractLsb' 8 8 else (s.readSfr x).extractLsb' 0 8) ∧
    (∀ a, (s.dev.sfrAt a = none ↔ ∀ e ∈ s.dev.sfrAddr, e.2 ≠ a &&& 0xFFFE) ∧
      ∀ x, s.dev.sfrAt a = some x → (x, a &&& 0xFFFE) ∈ s.dev.sfrAddr) ∧
    (∀ a, (s.badAccess .byte a = true ↔ s.dev.dataAt a.toNat = false ∧ s.dev.sfrAt a = none) ∧
      (s.badAccess .word a = true ↔
        a.getLsbD 0 = true ∨ s.badAccess .byte a = true ∨ s.badAccess .byte (a + 1) = true)) ∧
    s.sfrReads

/-- Accesses that raise the address error where it does not conflict: ADDRERR is set, "data space writes are inhibited" (R59),
the PC goes on. A bit manipulation or a bit test through an odd address, paged or not (R54, R93), a bit manipulation of an
unimplemented address (R55), a misaligned or unimplemented MOV.D destination, either of its words, or stack store or push (R53,
R55), a paged access with page 0 (R57). A call, link or unlink on such a stack goes on as well and writes nothing, a call with
one bad word not even the other. W15 and STKERR are as the access's push and stack checks leave them: both flags are set by a
misaligned push beyond SPLIM (R147). The step's log has the address error, against an oscillator failure of the same step
(R127).
Model's choices: notes/assumptions/15, 19, 21, 31, 33, 38, 53 and 55. -/
def Obligations.AddressErrorInhibitsWrites : Prop :=
  ∀ (s : State) (i : Instr), s.addrErrorFree →
    (s.writesBadly i →
      ∃ t, exec i s = .next t ∧ t.addrLogged ∧ t.ram = s.ram ∧ t.pc = s.pc + 2 ∧
        (∀ j : WReg, j.val ≠ 15 → t.readW j = s.readW j) ∧ t.sr &&& 0x00E0 = s.sr &&& 0x00E0 ∧
        (∀ w, bitThrough i w →
          t.w15 = s.w15 ∧ ((s.readW w).getLsbD 0 = true → t.sr = s.sr) ∧
          s.addrErrorSet t (s.pointerFails w false ∨ (w.val = 15 ∧ s.w15 < 0x1000))) ∧
        (∀ p w, i = .movD (.pair p) (.indirect w) ∨ i = .movD (.pair p) (.paged w) →
          t.w15 = s.w15 ∧ s.addrErrorSet t (s.pointerFails w true ∨ (w.val = 15 ∧ s.w15 < 0x1000))) ∧
        (∀ size disp r, i = .w15Access (.store size disp r) →
          t.w15 = s.w15 ∧ t.sr = s.sr ∧
          s.addrErrorSet t
            (s.overLimit (s.w15 + disp) ∨ 0xFFFF < (s.w15.toNat : Int) + disp.toInt ∨ s.w15 < 0x1000)) ∧
        (∀ r, i = .w15Access (.push r) →
          t.w15 = s.w15 + 2 ∧ t.sr = s.sr ∧ s.addrErrorSet t (s.overLimit s.w15 ∨ t.w15 < 0x1000)) ∧
        t = { s with
          pc := t.pc, w15 := t.w15, sr := t.sr, intcon1 := t.intcon1, free := t.free, log := t.log }) ∧
    (s.framesBadly i →
      ∃ t, exec i s = .next t ∧ t.addrLogged ∧ t.ram = s.ram ∧ t.corcon &&& 0xFFFB = s.corcon &&& 0xFFFB ∧
        s.onlyRegs t [14, 15] ∧
        (∀ target, i = .w15Access (.call target) →
          t.pc = target.zeroExtend 24 ∧ t.w15 = s.w15 + 4 ∧ t.readW 14 = s.readW 14 ∧
          s.addrErrorSet t (s.overLimit s.w15 ∨ s.overLimit (s.w15 + 2) ∨ t.w15 < 0x1000)) ∧
        (∀ lit14, i = .w15Access (.link lit14) →
          t.pc = s.pc + 2 ∧ t.readW 14 = s.w15 + 2 ∧ t.w15 = s.w15 + 2 + lit14.zeroExtend 16 ∧
          s.addrErrorSet t (s.overLimit s.w15 ∨ t.w15 < 0x1000)) ∧
        (i = .w15Access .unlink →
          t.pc = s.pc + 2 ∧ t.w15 = s.readW 14 - 2 ∧
          s.addrErrorSet t (s.overLimit (s.readW 14 - 2) ∨ t.w15 < 0x1000)) ∧
        t = { s with
          pc := t.pc, w := t.w, alt1 := t.alt1, alt2 := t.alt2, w15 := t.w15, corcon := t.corcon
          intcon1 := t.intcon1, free := t.free, log := t.log })

/-- Reads that raise the address error where it does not conflict: ADDRERR is set and no byte of memory changes. A load, pop,
MOV.D, bit test or MAC-class fetch that is misaligned or unimplemented, X and Y space apart (R53, R55, R92), paged or not; a
paged read with page 0 (R57). The tested word is one of R96's operand forms, and IPL and CORCON stay. Each form goes on, PC + 2
or a skip, with its own destinations alone changed, free, and STKERR by its stack checks; the accumulator and the overflow
flags of a MAC are as in MacResult.
Model's choices: notes/assumptions/15, 19, 21, 27, 31, 33, 35 and 55. -/
def Obligations.BadReadRaisesAddressError : Prop :=
  ∀ (s : State) (i : Instr), s.addrErrorFree → s.readsBadly i →
    ∃ t, exec i s = .next t ∧ t.addrLogged ∧ t.sr &&& 0x00E0 = s.sr &&& 0x00E0 ∧
      (∀ size disp r, i = .w15Access (.load size disp r) →
        t.pc = s.pc + 2 ∧ t.sr = s.sr ∧ s.onlyRegs t [r] ∧
        s.addrErrorSet t
          (s.overLimit (s.w15 + disp) ∨ 0xFFFF < (s.w15.toNat : Int) + disp.toInt ∨ t.w15 < 0x1000)) ∧
      (∀ r, i = .w15Access (.pop r) →
        t.pc = s.pc + 2 ∧ t.sr = s.sr ∧ s.onlyRegs t [r, 15] ∧ (r.val ≠ 15 → t.w15 = s.w15 - 2) ∧
        s.addrErrorSet t (s.overLimit (s.w15 - 2) ∨ t.w15 < 0x1000)) ∧
      (∀ w p, i = .movD (.indirect w) (.pair p) ∨ i = .movD (.paged w) (.pair p) →
        t.pc = s.pc + 2 ∧ s.onlyRegs t [pairLow p, pairHigh p] ∧
        s.addrErrorSet t (s.pointerFails w true ∨ s.leftBelow (w.val = 15) t)) ∧
      (∀ w, bitThrough i w →
        s.onlyRegs t [] ∧
        ((t.pc = s.pc + 2 ∧ t.skid = s.skid) ∨
          ((s.readW w).getLsbD 0 = false ∧ t.pc = s.skipTarget ∧ t.skid = if 0 < s.skid then s.skid + 1 else 0)) ∧
        ((s.readW w).getLsbD 0 = true → t.sr = s.sr) ∧
        s.addrErrorSet t (s.pointerFails w false ∨ (w.val = 15 ∧ s.w15 < 0x1000))) ∧
      (∀ acc x y dsts, i = .macClass acc x y dsts →
        t.pc = s.pc + 2 ∧ s.onlyRegs t dsts ∧ (acc = .a → t.accB = s.accB) ∧ (acc = .b → t.accA = s.accA) ∧
        t.intcon1.getLsbD 3 = true ∧ t.intcon1 &&& 0x87E3 = s.intcon1 &&& 0x87E3 ∧ s.macFlags t acc ∧
        (t.intcon1.getLsbD 2 = true ↔ s.intcon1.getLsbD 2 = true ∨ s.pointerFails x false ∨ s.pointerFails y false ∨
          s.leftBelow (x.val = 15 ∨ y.val = 15) t)) ∧
      ((∀ acc x y dsts, i ≠ .macClass acc x y dsts) → t.accA = s.accA ∧ t.accB = s.accB) ∧
      ((∀ w, ¬bitThrough i w) → t.skid = s.skid) ∧
      t = { s with
        pc := t.pc, w := t.w, alt1 := t.alt1, alt2 := t.alt2, w15 := t.w15, sr := t.sr, intcon1 := t.intcon1
        accA := t.accA, accB := t.accB, skid := t.skid, free := t.free, log := t.log }

/-- A hard trap condition of level L detected at CPUIPL >= L, or while a hard trap of a higher level is requested, resets the
device with TRAPR = 1 (R127): the address error of every access of the two statements above and of a call, link or unlink on a
bad stack, and software's setting of SWTRAP or SGHT, whatever else the write selects (R132). Entry, RETFIE and RETURN, an
unimplemented PC or target, OSCFAIL and ADDRERR written and the environment's events have it in their own statements.
Model's choices: notes/assumptions/15, 17, 21, 27, 31, 33, 35, 38, 40, 53 and 55. -/
def Obligations.HardTrapConflictResets : Prop :=
  ∀ (s : State) (i : Instr),
    (¬s.addrErrorFree ∧ (s.writesBadly i ∨ s.readsBadly i ∨ s.framesBadly i)) ∨
    ((13 ≤ s.cpuIpl ∨ s.intcon1.getLsbD 1 = true ∨ s.intcon1.getLsbD 3 = true) ∧
      ((∃ mask value, i = .sfrWrite .intcon2 mask value ∧ mask.getLsbD 13 = true ∧ value.getLsbD 13 = true ∧
          s.intcon2.getLsbD 13 = false ∧ (mask.getLsbD 14 = true → value.getLsbD 14 = s.intcon2.getLsbD 14)) ∨
        (∃ mask value, i = .sfrWrite .intcon4 mask value ∧ mask.getLsbD 0 = true ∧ value.getLsbD 0 = true ∧
          s.intcon4.getLsbD 0 = false))) →
    ∃ t, exec i s = .next t ∧ s.conflictReset t

/-- The forms that the model refuses by name: SFTAC, DO and the MAC class on a device without the DSP engine (R2, R74), and a
write with Paged Addressing to an even address in a page other than 0, whose target the spec does not give (N43).
Model's choices: notes/assumptions/31 and 55. -/
def Obligations.FormsRefusedByName : Prop :=
  ∀ s : State,
    (s.dev.hasDsp = false →
      (∀ acc amount, exec (.sftac acc amount) s = .refused .noDspEngine) ∧
      (∀ count stop, exec (.doLoop count stop) s = .refused .noDspEngine) ∧
      ∀ acc x y dsts, exec (.macClass acc x y dsts) s = .refused .noDspEngine) ∧
    (s.dswpag ≠ 0 → ∀ w, (s.readW w).getLsbD 0 = false →
      (∀ p, exec (.movD (.pair p) (.paged w)) s = .refused .pagedWrite) ∧
      (s.dsrpag ≠ 0 → ∀ size bit, exec (.bitManip size bit (.paged w)) s = .refused .pagedWrite))

/-! ### Writes of special function registers -/

/-- A write of SR: bit by bit by access type, IPL<2:0> only while NSTDIS = 0 (R12, R15, R98). A write of CORCON: IPL3 can be
cleared and not set, SFA and DL do not take a value (R13, R16). Nothing else changes.
Model's choices: notes/assumptions/49. -/
def Obligations.SfrWriteSrAndCorcon : Prop :=
  ∀ (s : State) (mask value : Word),
    (∃ t, exec (.sfrWrite .sr mask value) s = .next t ∧
      (s.intcon1.getLsbD 15 = false → bitsWritten s.sr t.sr mask value 0x00EF 0x3400) ∧
      (s.intcon1.getLsbD 15 = true →
        bitsWritten s.sr t.sr mask value 0x000F 0x3400 ∧ t.sr.extractLsb' 5 3 = s.sr.extractLsb' 5 3) ∧
      t.quiet ∧ t = { s with pc := s.pc + 2, sr := t.sr, log := t.log }) ∧
    (∃ t, exec (.sfrWrite .corcon mask value) s = .next t ∧
      bitsWritten s.corcon t.corcon mask value 0xB8F3 0x0008 ∧
      (t.corcon.getLsbD 3 = true → s.corcon.getLsbD 3 = true) ∧
      (mask.getLsbD 3 = true → value.getLsbD 3 = false → t.cpuIpl = (s.sr.extractLsb' 5 3).toNat) ∧
      t.corcon.getLsbD 2 = s.corcon.getLsbD 2 ∧ t.corcon.extractLsb' 8 3 = s.corcon.extractLsb' 8 3 ∧
      t.quiet ∧ t = { s with pc := s.pc + 2, corcon := t.corcon, log := t.log })

/-- A write of INTCON2: one that would change DISI is refused (D11). Otherwise its R/W bits take the value; SWTRAP going from 0
to 1 sets SGHT (R132); a cleared GIE is still seen as 1 at up to two boundaries, a set one at once (R106, D9); a changed
polarity bit may set the flag of its own pin and no other (R152, D32). A write of SWTRAP that starts a hard trap conflict is
HardTrapConflictResets, whatever else it writes.
Model's choices: notes/assumptions/10 and 41. -/
def Obligations.SfrWriteIntcon2 : Prop :=
  ∀ (s : State) (mask value : Word),
    (mask.getLsbD 14 = true → value.getLsbD 14 ≠ s.intcon2.getLsbD 14 →
      exec (.sfrWrite .intcon2 mask value) s = .refused .disiBitWrite) ∧
    ((mask.getLsbD 14 = true → value.getLsbD 14 = s.intcon2.getLsbD 14) →
      (mask.getLsbD 13 = true → value.getLsbD 13 = true → s.intcon2.getLsbD 13 = false →
        s.cpuIpl < 13 ∧ s.intcon1.getLsbD 1 = false ∧ s.intcon1.getLsbD 3 = false) →
      ∃ t, exec (.sfrWrite .intcon2 mask value) s = .next t ∧
        bitsWritten s.intcon2 t.intcon2 mask value 0xA11F 0 ∧
        (s.intcon2.getLsbD 13 = false → t.intcon2.getLsbD 13 = true → t.intcon4 = s.intcon4 ||| 0x0001) ∧
        (s.intcon2.getLsbD 13 = true ∨ t.intcon2.getLsbD 13 = false → t.intcon4 = s.intcon4) ∧
        (t.intcon2.getLsbD 15 = true → t.giePipe = true ∧ t.gieLag = 0) ∧
        (s.intcon2.getLsbD 15 = true → t.intcon2.getLsbD 15 = false → t.gieLag ≤ 2) ∧
        (s.intcon2.getLsbD 15 = false → t.intcon2.getLsbD 15 = false → t.gieLag = s.gieLag) ∧
        (∀ n, t.ifsBit n = s.ifsBit n ∨
          (t.ifsBit n = true ∧ ∃ k : Fin 5, t.intcon2.getLsbD k ≠ s.intcon2.getLsbD k ∧
            s.dev.extIrq[k.val]? = some n)) ∧
        t.logIs False False
          (mask.getLsbD 13 = true ∧ value.getLsbD 13 = true ∧ s.intcon2.getLsbD 13 = false) False ∧
        t = { s with
          pc := s.pc + 2, intcon2 := t.intcon2, intcon4 := t.intcon4, gieLag := t.gieLag, ifs := t.ifs, free := t.free
          log := t.log })

/-- Writes of INTCON1, INTCON3 and INTCON4: the implemented bits, by the units that the device has, that the mask selects take
the value (R17, R19, R20, R98), but a 0 written to MATHERR is ignored while OVATE and OA, or OVBTE and OB, are 1 (R139). A 1
written over a 0 in OSCFAIL, ADDRERR or SGHT is a hard trap event (D28, R132), which the step's log has, and resets the device
where it conflicts with the CPU priority or with a higher hard trap's flag as the write leaves it (R127).
Model's choices: notes/assumptions/17, 40 and 44. -/
def Obligations.SfrWriteTrapFlags : Prop :=
  ∀ (s : State) (mask value : Word) (osc addr oscAfter gen : Prop),
    (osc ↔ mask.getLsbD 1 = true ∧ value.getLsbD 1 = true ∧ s.intcon1.getLsbD 1 = false) →
    (addr ↔ mask.getLsbD 3 = true ∧ value.getLsbD 3 = true ∧ s.intcon1.getLsbD 3 = false) →
    (oscAfter ↔ if mask.getLsbD 1 = true then value.getLsbD 1 = true else s.intcon1.getLsbD 1 = true) →
    (gen ↔ mask.getLsbD 0 = true ∧ value.getLsbD 0 = true ∧ s.intcon4.getLsbD 0 = false) →
    s.dev.intcon1Bits =
      (if s.dev.hasDsp then (if s.dev.hasDma then 0xFFFE else 0xFFDE) else if s.dev.hasDma then 0x807E else 0x805E) ∧
    (∀ i, s.dev.intcon3Bits.getLsbD i = decide ((i = 8 ∧ s.dev.hasNvmAe = true) ∨ (i = 6 ∧ s.dev.hasUsb = true) ∨
      (i = 5 ∧ s.dev.hasDma = true) ∨ (i = 4 ∧ s.dev.hasDsp = true) ∨ (i = 2 ∧ s.dev.hasUsbPll = true) ∨
      (i = 0 ∧ s.dev.hasApll = true))) ∧
    (¬(osc ∧ s.cpuIpl = 15) → ¬(addr ∧ (14 ≤ s.cpuIpl ∨ oscAfter)) →
      ∃ t, exec (.sfrWrite .intcon1 mask value) s = .next t ∧
        (∀ i, i < 16 → t.intcon1.getLsbD i =
          if mask.getLsbD i = true ∧ s.dev.intcon1Bits.getLsbD i = true ∧
            ¬(i = 4 ∧ value.getLsbD 4 = false ∧
              ((s.intcon1.getLsbD 10 = true ∧ s.sr.getLsbD 15 = true) ∨
                (s.intcon1.getLsbD 9 = true ∧ s.sr.getLsbD 14 = true)))
          then value.getLsbD i else s.intcon1.getLsbD i) ∧
        t.logIs osc addr False False ∧ t = { s with pc := s.pc + 2, intcon1 := t.intcon1, log := t.log }) ∧
    ((osc ∧ s.cpuIpl = 15) ∨ (addr ∧ (14 ≤ s.cpuIpl ∨ oscAfter)) →
      ∃ t, exec (.sfrWrite .intcon1 mask value) s = .next t ∧ s.conflictReset t) ∧
    (∃ t, exec (.sfrWrite .intcon3 mask value) s = .next t ∧
      bitsWritten s.intcon3 t.intcon3 mask value s.dev.intcon3Bits 0 ∧
      t.quiet ∧ t = { s with pc := s.pc + 2, intcon3 := t.intcon3, log := t.log }) ∧
    (¬(gen ∧ (13 ≤ s.cpuIpl ∨ s.intcon1.getLsbD 1 = true ∨ s.intcon1.getLsbD 3 = true)) →
      ∃ t, exec (.sfrWrite .intcon4 mask value) s = .next t ∧
        bitsWritten s.intcon4 t.intcon4 mask value 0x0001 0 ∧
        t.logIs False False gen False ∧ t = { s with pc := s.pc + 2, intcon4 := t.intcon4, log := t.log }) ∧
    (gen → (13 ≤ s.cpuIpl ∨ s.intcon1.getLsbD 1 = true ∨ s.intcon1.getLsbD 3 = true) →
      ∃ t, exec (.sfrWrite .intcon4 mask value) s = .next t ∧ s.conflictReset t)

/-- Writes of IFSx, IECx and IPCx: of each source that the register and the mask select and the device has, the flag, the
enable or the priority bit takes the value, and every other source's stays (R21 to R24, R155); a write of INTTREG changes
nothing (R25).
Model's choices: notes/assumptions/12 and 44. -/
def Obligations.SfrWriteInterruptRegisters : Prop :=
  ∀ (s : State) (mask value : Word),
    (∀ k : Fin 16, ∃ t, exec (.sfrWrite (.ifs k) mask value) s = .next t ∧
      (∀ n, t.ifsBit n =
        if n / 16 = k.val ∧ s.implemented n = true ∧ mask.getLsbD (n % 16) = true then value.getLsbD (n % 16)
        else s.ifsBit n) ∧
      t.quiet ∧ t = { s with pc := s.pc + 2, ifs := t.ifs, log := t.log }) ∧
    (∀ k : Fin 16, ∃ t, exec (.sfrWrite (.iec k) mask value) s = .next t ∧
      (∀ n, t.iecBit n =
        if n / 16 = k.val ∧ s.implemented n = true ∧ mask.getLsbD (n % 16) = true then value.getLsbD (n % 16)
        else s.iecBit n) ∧
      t.quiet ∧ t = { s with pc := s.pc + 2, iec := t.iec, log := t.log }) ∧
    (∀ k : Fin 62, ∃ t, exec (.sfrWrite (.ipc k) mask value) s = .next t ∧
      (∀ n i, i < 3 → (t.ipcOf n).getLsbD i =
        if n / 4 = k.val ∧ s.implemented n = true ∧ mask.getLsbD (4 * (n % 4) + i) = true
        then value.getLsbD (4 * (n % 4) + i) else (s.ipcOf n).getLsbD i) ∧
      (∀ j : Fin 62, t.ipc[j] &&& 0x8888 = s.ipc[j] &&& 0x8888) ∧
      t.quiet ∧ t = { s with pc := s.pc + 2, ipc := t.ipc, log := t.log }) ∧
    (∃ t, exec (.sfrWrite .inttreg mask value) s = .next t ∧ t.quiet ∧ t = { s with pc := s.pc + 2, log := t.log })

/-- A write of DISICNT sets the count and ends the disable with a 0 while INTCON2.DISI = 1, and disables nothing while it is 0
(R80 (c), (d)); a word written to SPLIM enables its check, a write of less does not (R28); RCON.TRAPR takes the value (R181);
the bits that a mask does not select stay, in these and in OSCCON and the page registers (R98).
Model's choices: notes/assumptions/28, 29, 30 and 31. -/
def Obligations.SfrWriteCountersAndOthers : Prop :=
  ∀ (s : State) (mask value : Word),
    (∃ t, exec (.sfrWrite .disicnt mask value) s = .next t ∧
      (s.intcon2.getLsbD 14 = false → t.intcon2 = s.intcon2) ∧
      (s.intcon2.getLsbD 14 = true → mask &&& 0x3FFF ≠ 0 →
        (∀ i, i < 14 → t.disicnt.getLsbD i = if mask.getLsbD i then value.getLsbD i else s.disicnt.getLsbD i) ∧
        (t.intcon2.getLsbD 14 = true ↔ t.disicnt ≠ 0) ∧ t.intcon2 &&& 0xBFFF = s.intcon2 &&& 0xBFFF) ∧
      (mask &&& 0x3FFF = 0 → t.disicnt = s.disicnt ∧ t.intcon2 = s.intcon2) ∧
      t.logIs False False False (s.intcon2.getLsbD 14 = true ∧ mask &&& 0x3FFF ≠ 0) ∧
      t = { s with
        pc := s.pc + 2, disicnt := t.disicnt, intcon2 := t.intcon2, free := t.free, log := t.log }) ∧
    (∃ t, exec (.sfrWrite .splim mask value) s = .next t ∧
      (mask = 0xFFFF → t.splim = value ∧ t.splimWritten = true) ∧ bitsWritten s.splim t.splim mask value 0xFFFF 0 ∧
      (t.splimWritten = true ↔ s.splimWritten = true ∨ mask = 0xFFFF) ∧
      t.quiet ∧ t = { s with pc := s.pc + 2, splim := t.splim, splimWritten := t.splimWritten, log := t.log }) ∧
    (∃ t, exec (.sfrWrite .rcon mask value) s = .next t ∧
      t.trapr = (if mask.getLsbD 15 then value.getLsbD 15 else s.trapr) ∧
      t.rcon &&& ~~~mask = s.rcon &&& ~~~mask ∧
      t.quiet ∧ t = { s with pc := s.pc + 2, rcon := t.rcon, free := t.free, log := t.log }) ∧
    (∃ t, exec (.sfrWrite .osccon mask value) s = .next t ∧ t.osccon &&& ~~~mask = s.osccon &&& ~~~mask ∧
      t.quiet ∧ t = { s with pc := s.pc + 2, osccon := t.osccon, free := t.free, log := t.log }) ∧
    (∃ t, exec (.sfrWrite .dsrpag mask value) s = .next t ∧ bitsWritten s.dsrpag t.dsrpag mask value 0xFFFF 0 ∧
      t.quiet ∧ t = { s with pc := s.pc + 2, dsrpag := t.dsrpag, log := t.log }) ∧
    (∃ t, exec (.sfrWrite .dswpag mask value) s = .next t ∧ bitsWritten s.dswpag t.dswpag mask value 0xFFFF 0 ∧
      t.quiet ∧ t = { s with pc := s.pc + 2, dswpag := t.dswpag, log := t.log })

/-- A store that reaches a special function register is a software write of it, of all its bits, of the addressed byte's or of
the one bit written (R98): a word or byte store through W15 within the stack's bounds, a push, a bit manipulation, and each
word of MOV.D, with every effect of that write, a refusal and a conflict reset among them. What SFRWRITE itself is stands
first.
Model's choices: notes/assumptions/15, 19, 32, 33, 36 and 51. -/
def Obligations.StoreToSfrIsSfrWrite : Prop :=
  ∀ (s : State) (disp : Word) (src : WReg) (r : Sfr) (ea : Word),
    (∀ mask value, exec (.sfrWrite r mask value) s =
      andThen (s.fresh.writeSfr r mask value) fun t => .next (t.advance.settle s.cpuIpl)) ∧
    (ea = s.w15 + disp → s.dev.sfrAt ea = some r → ¬s.overLimit ea → (s.w15.toNat : Int) + disp.toInt ≤ 0xFFFF →
      0x1000 ≤ s.w15 →
      (s.badAccess .word ea = false →
        exec (.w15Access (.store .word disp src)) s = exec (.sfrWrite r 0xFFFF (s.readW src)) s) ∧
      (s.badAccess .byte ea = false → ea.getLsbD 0 = false →
        exec (.w15Access (.store .byte disp src)) s = exec (.sfrWrite r 0x00FF (s.readW src &&& 0x00FF)) s) ∧
      (s.badAccess .byte ea = false → ea.getLsbD 0 = true →
        exec (.w15Access (.store .byte disp src)) s = exec (.sfrWrite r 0xFF00 (s.readW src <<< 8)) s)) ∧
    (s.dev.sfrAt s.w15 = some r → s.badAccess .word s.w15 = false → ¬s.overLimit s.w15 → 0x1000 ≤ s.w15 →
      s.w15 < 0xFFFE →
      exec (.w15Access (.push src)) s =
        (andThen (s.fresh.writeSfr r 0xFFFF (s.readW src)) fun t =>
          .next ({ t with w15 := s.w15 + 2 }.advance.settle s.cpuIpl)) ∧
      (r ≠ .intcon1 → r ≠ .intcon2 → r ≠ .intcon4 →
        exec (.w15Access (.push src)) s =
          andThen (exec (.sfrWrite r 0xFFFF (s.readW src)) s) fun t => .next { t with w15 := s.w15 + 2 }) ∧
      (r = .intcon2 → (s.readW src).getLsbD 14 ≠ s.intcon2.getLsbD 14 →
        exec (.w15Access (.push src)) s = .refused .disiBitWrite) ∧
      ((r = .intcon1 ∧ (((s.readW src).getLsbD 1 = true ∧ s.intcon1.getLsbD 1 = false ∧ s.cpuIpl = 15) ∨
          ((s.readW src).getLsbD 3 = true ∧ s.intcon1.getLsbD 3 = false ∧
            (14 ≤ s.cpuIpl ∨ (s.readW src).getLsbD 1 = true)))) ∨
        ((13 ≤ s.cpuIpl ∨ s.intcon1.getLsbD 1 = true ∨ s.intcon1.getLsbD 3 = true) ∧
          ((r = .intcon2 ∧ (s.readW src).getLsbD 14 = s.intcon2.getLsbD 14 ∧ (s.readW src).getLsbD 13 = true ∧
              s.intcon2.getLsbD 13 = false) ∨
            (r = .intcon4 ∧ (s.readW src).getLsbD 0 = true ∧ s.intcon4.getLsbD 0 = false))) →
        ∃ t, exec (.w15Access (.push src)) s = .next t ∧ s.conflictReset t)) ∧
    (∀ (size : Size) (bit : Fin 16) (w : WReg), s.dev.sfrAt (s.readW w) = some r → (s.readW w).getLsbD 0 = false →
      s.badAccess size (s.readW w) = false → (w.val = 15 → 0x1000 ≤ s.w15 ∧ ¬s.overLimit s.w15) →
      ∃ b, exec (.bitManip size bit (.indirect w)) s =
        exec (.sfrWrite r (setBit 0 bit.val true) (setBit 0 bit.val b)) s.draw.execFlags) ∧
    (∀ (p : Fin 8) (w : WReg),
      (w.val = 15 → 0x1000 ≤ s.w15 ∧ s.w15 < 0xFFFE ∧ ¬s.overLimit s.w15 ∧ ¬s.overLimit (s.w15 + 2)) →
      s.badAccess .word (s.readW w) = false →
      s.badAccess .word (s.readW w + 2) = false →
      (s.dev.sfrAt (s.readW w) = some r → s.dev.sfrAt (s.readW w + 2) = none →
        exec (.movD (.pair p) (.indirect w)) s =
          exec (.sfrWrite r 0xFFFF (s.readW (pairLow p)))
            (s.draw.draw.execFlags.setRamWord (s.readW w + 2) (s.readW (pairHigh p)))) ∧
      (s.dev.sfrAt (s.readW w) = none → s.dev.sfrAt (s.readW w + 2) = some r →
        exec (.movD (.pair p) (.indirect w)) s =
          exec (.sfrWrite r 0xFFFF (s.readW (pairHigh p)))
            (s.draw.draw.execFlags.setRamWord (s.readW w) (s.readW (pairLow p)))) ∧
      (∀ r', s.dev.sfrAt (s.readW w) = some r → s.dev.sfrAt (s.readW w + 2) = some r' →
        exec (.movD (.pair p) (.indirect w)) s =
          andThen (s.fresh.draw.draw.execFlags.writeSfr r 0xFFFF (s.readW (pairLow p))) fun u =>
            andThen (u.writeSfr r' 0xFFFF (s.readW (pairHigh p))) fun v => .next (v.advance.settle s.cpuIpl)))

/-! ### The environment -/

/-- The environment of a step applies the first of its event lists in order, and leaves the rest of them and an empty log
(R103). What each event does: a device reset resets (R181); a source's event sets its flag only (R103); the oscillator failure
sets OSCFAIL and CF, or resets the device at CPU priority 15 or where the step has detected a lower hard trap (R130, R127); DMA
and USB writes store their byte, or set the agent's bit at an unimplemented address and do nothing at a register's; DMA, USB,
NVM and PLL errors set their bits, and without the unit do nothing (R140, R142 to R144, R146); a pin's edge of the selected
polarity sets its flag, any other change none (R152); no event withdraws a request, of an interrupt or of a trap (R103, R102,
R121).
Model's choices: notes/assumptions/8, 17, 30, 39 and 50. -/
def Obligations.EnvironmentEvents : Prop :=
  ∀ (s : State) (conflict : Prop), (conflict ↔ s.cpuIpl = 15 ∨ s.log.addr = true ∨ s.log.gen = true) →
    s.environment = { (s.env.headD []).foldl (fun u e => u.event e) { s with env := s.env.tail } with log := {} } ∧
    (∃ t, s.environment = t ∧ t.env = s.env.tail ∧ t.log = {} ∧ s.sameProgram t) ∧
    s.resetTo (s.event .deviceReset) ∧
    (∀ n, s.implemented n = false → s.event (.irq n) = s) ∧
    (∀ n m, s.implemented n = true →
      (s.event (.irq n)).ifsBit m = (s.ifsBit m || decide (m = n)) ∧
      s.event (.irq n) = { s with ifs := (s.event (.irq n)).ifs }) ∧
    (¬conflict → ∃ t, s.event .oscFail = t ∧ stackFlag (s.intcon1 ||| 0x0002) t.intcon1 (s.log.stk = true) ∧
      t.clockFail = true ∧ t.log = { s.log with osc := true } ∧
      (∀ i, i ≠ s.dev.cfBit.val → t.osccon.getLsbD i = s.osccon.getLsbD i) ∧
      t = { s with intcon1 := t.intcon1, osccon := t.osccon, log := t.log }) ∧
    (conflict → s.conflictReset (s.event .oscFail)) ∧
    (∀ (e : Word → Byte → EnvEvent) (has : Bool) (flag : Word),
      (e = .dmaWrite ∧ has = s.dev.hasDma ∧ flag = 0x0020) ∨ (e = .usbWrite ∧ has = s.dev.hasUsb ∧ flag = 0x0040) →
      ∀ a v,
        (has = false ∨ s.dev.sfrAt a ≠ none → s.event (e a v) = s) ∧
        (has = true → s.dev.sfrAt a = none →
          (s.dev.dataAt a.toNat = false → s.event (e a v) = { s with intcon3 := s.intcon3 ||| flag }) ∧
          (s.dev.dataAt a.toNat = true →
            s.event (e a v) = { s with ram := (s.event (e a v)).ram } ∧
            ∀ b, (s.event (e a v)).ramByte b = if b = a then v else s.ramByte b))) ∧
    s.event .dmaCollision = (if s.dev.hasDma then { s with intcon1 := s.intcon1 ||| 0x0020 } else s) ∧
    s.event .dmaAddrError = (if s.dev.hasDma then { s with intcon3 := s.intcon3 ||| 0x0020 } else s) ∧
    s.event .usbAddrError = (if s.dev.hasUsb then { s with intcon3 := s.intcon3 ||| 0x0040 } else s) ∧
    s.event .nvmAddrError = (if s.dev.hasNvmAe then { s with intcon3 := s.intcon3 ||| 0x0100 } else s) ∧
    s.event .usbPllUnlock = (if s.dev.hasUsbPll then { s with intcon3 := s.intcon3 ||| 0x0004 } else s) ∧
    s.event .apllUnlock = (if s.dev.hasApll then { s with intcon3 := s.intcon3 ||| 0x0001 } else s) ∧
    (∀ (k : Fin 5) (level : Bool) (n m : Nat), s.dev.extIrq[k.val]? = some n → s.implemented n = true →
      (s.event (.pin k level)).ifsBit m =
        (s.ifsBit m || decide (m = n ∧ s.pins[k] ≠ level ∧
          ((level = true ∧ s.intcon2.getLsbD k.val = false) ∨ (level = false ∧ s.intcon2.getLsbD k.val = true)))) ∧
      (s.event (.pin k level)).pins[k] = level) ∧
    (∀ k level, s.event (.pin k level) =
      { s with ifs := (s.event (.pin k level)).ifs, pins := (s.event (.pin k level)).pins }) ∧
    (∀ e, e ≠ .deviceReset → (e = .oscFail → ¬conflict) →
      (∀ n, s.ifsBit n = true → (s.event e).ifsBit n = true) ∧
      ∀ t, s.trapRequest t = true → (s.event e).trapRequest t = true)

/-! ### What every step keeps -/

/-- Every step keeps the program counter even, and every address a step can set it to (R50, R72, R118, R81), and no step faults
from there. That the Reset location is even is part of the invariant, as device parameters are any value.
Model's choices: notes/assumptions/23 and 24. -/
def Obligations.StepKeepsPcAligned : Prop :=
  ∀ s : State, s.pcAligned → (∀ t, step s = .next t → t.pcAligned) ∧ ∀ e, step s ≠ .fault e

/-- Every step keeps both memories in canonical form, and changes neither program memory nor the device's parameters: "program
memory, including the IVT and AIVT", is "constant during a run" (R68, R30).
Model's choices: notes/assumptions/2, 3 and 18. -/
def Obligations.StepKeepsMemories : Prop :=
  ∀ s t : State, s.memoryCanonical → step s = .next t → t.memoryCanonical ∧ s.sameProgram t

/-- Every step keeps unimplemented register bits at 0 (R34), and INTCON2.DISI = 1 only with a count that is not 0 (R80).
Model's choices: notes/assumptions/44. -/
def Obligations.StepKeepsRegisterForms : Prop :=
  ∀ s t : State, s.reservedClear → s.disiCounts → step s = .next t → t.reservedClear ∧ t.disiCounts

/-- IPL3 goes from 0 to 1 only where a trap is the winner at the boundary or the instruction there is RETFIE: software cannot
set it, no interrupt entry and no event of the environment does (R16, R117). -/
def Obligations.Ipl3IsSetByTrapOrRetfie : Prop :=
  ∀ s t : State, s.corcon.getLsbD 3 = false → step s = .next t → t.corcon.getLsbD 3 = true →
    (∃ tr, s.winner = some (.trap tr)) ∨ s.fetch = .next .retfie

/-- The machine after reset meets the invariants that every step keeps.
Model's choices: notes/assumptions/1 and 5. -/
def Obligations.ResetMeetsInvariants : Prop :=
  State.reset.skid ≤ State.reset.skidLimit ∧ State.reset.pcAligned ∧ State.reset.memoryCanonical ∧
  State.reset.reservedClear ∧ State.reset.disiCounts
end

