-- ==== Sys2Proof/Laws/Bits.lean ====
section
/-! SUPPORT. The laws of bits and fields of words. -/

namespace Sys2Proof.Machine

open Sys2Proof

theorem getLsbD_one_shift (i j : Nat) : (1#16 <<< i).getLsbD j = decide (j = i ∧ j < 16) := by
  rw [BitVec.getLsbD_shiftLeft, BitVec.getLsbD_one]
  by_cases hj : j < 16 <;> by_cases hlt : j < i <;> by_cases he : j = i <;> simp [hj, hlt, he]; omega

/-- A bit of a word with a bit set to a value. -/
@[simp] theorem getLsbD_setBit (r : Word) (i j : Nat) (b : Bool) :
    (setBit r i b).getLsbD j = if j = i ∧ j < 16 then b else r.getLsbD j := by
  have hlt : r.getLsbD j = true → j < 16 := fun h => BitVec.lt_of_getLsbD h
  unfold setBit
  by_cases h : j = i ∧ j < 16
  · obtain ⟨rfl, hj⟩ := h
    cases b <;> simp only [Bool.false_eq_true, if_false, if_true, BitVec.getLsbD_and, BitVec.getLsbD_or,
      BitVec.getLsbD_not, getLsbD_one_shift, hj, and_self, decide_true] <;> simp
  · cases b <;> simp only [Bool.false_eq_true, if_false, if_true, BitVec.getLsbD_and, BitVec.getLsbD_or,
      BitVec.getLsbD_not, getLsbD_one_shift, h, decide_false] <;> cases hr : r.getLsbD j <;> simp_all

/-- A bit of a merged word. -/
@[simp] theorem getLsbD_mergeBits (old new mask : Word) (j : Nat) :
    (mergeBits old new mask).getLsbD j = if mask.getLsbD j then new.getLsbD j else old.getLsbD j := by
  have hlt : old.getLsbD j = true → j < 16 := fun h => BitVec.lt_of_getLsbD h
  unfold mergeBits
  simp only [BitVec.getLsbD_or, BitVec.getLsbD_and, BitVec.getLsbD_not]
  cases hm : mask.getLsbD j <;> cases hr : old.getLsbD j <;> simp_all

/-- A software write by access type, bit by bit (R98): an R/W bit takes the value, an R/C bit is cleared by a 0, any other is
unchanged. -/
@[simp] theorem getLsbD_writeBits (old mask value rw rc : Word) (j : Nat) :
    (writeBits old mask value rw rc).getLsbD j =
      ((if mask.getLsbD j && rw.getLsbD j then value.getLsbD j else old.getLsbD j)
        && !(mask.getLsbD j && rc.getLsbD j && !value.getLsbD j)) := by
  have hm : mask.getLsbD j = true → j < 16 := fun h => BitVec.lt_of_getLsbD h
  have ho : old.getLsbD j = true → j < 16 := fun h => BitVec.lt_of_getLsbD h
  unfold writeBits
  simp only [BitVec.getLsbD_and, BitVec.getLsbD_not, getLsbD_mergeBits]
  cases h1 : mask.getLsbD j <;> cases h2 : old.getLsbD j <;> cases h3 : rw.getLsbD j <;>
    cases h4 : value.getLsbD j <;> simp_all

@[simp] theorem getElem_setBit (r : Word) (i j : Nat) (b : Bool) (h : j < 16) :
    (setBit r i b)[j] = if i = j then b else r[j] := by
  have := getLsbD_setBit r i j b
  simp only [BitVec.getLsbD_eq_getElem h] at this
  rw [this]
  by_cases e : i = j <;> simp [e, eq_comm, h]

@[simp] theorem getElem_mergeBits (old new mask : Word) (j : Nat) (h : j < 16) :
    (mergeBits old new mask)[j] = if mask[j] then new[j] else old[j] := by
  have := getLsbD_mergeBits old new mask j
  simpa only [BitVec.getLsbD_eq_getElem h] using this

@[simp] theorem getElem_writeBits (old mask value rw rc : Word) (j : Nat) (h : j < 16) :
    (writeBits old mask value rw rc)[j] =
      ((if mask[j] && rw[j] then value[j] else old[j]) && !(mask[j] && rc[j] && !value[j])) := by
  have := getLsbD_writeBits old mask value rw rc j
  simpa only [BitVec.getLsbD_eq_getElem h] using this

/-- A word is what its two bytes put together are. -/
@[simp] theorem high_low_bytes (v : Word) : highByte v ++ lowByte v = v := by
  unfold highByte lowByte
  apply BitVec.eq_of_getLsbD_eq
  intro i hi
  rw [BitVec.getLsbD_append]
  by_cases h : i < 8
  · simp only [h, decide_true, if_true, BitVec.getLsbD_extractLsb']; simp
  · have e : 8 + (i - 8) = i := by omega
    have h8 : i - 8 < 8 := by omega
    simp only [h, decide_false, if_false, BitVec.getLsbD_extractLsb', e, h8]; simp

/-- IPL<2:0> reads as written. -/
@[simp] theorem extract_setIplField (sr : Word) (l : BitVec 3) : (setIplField sr l).extractLsb' 5 3 = l := by
  unfold setIplField
  apply BitVec.eq_of_getLsbD_eq
  intro i hi
  simp only [BitVec.getLsbD_extractLsb', getLsbD_mergeBits]
  have h3 : i = 0 ∨ i = 1 ∨ i = 2 := by omega
  rcases h3 with rfl | rfl | rfl <;> simp

/-- The other bits of a status word stay when IPL<2:0> is written. -/
theorem getLsbD_setIplField (sr : Word) (l : BitVec 3) (j : Nat) (h : j < 5 ∨ 7 < j) :
    (setIplField sr l).getLsbD j = sr.getLsbD j := by
  unfold setIplField
  rw [getLsbD_mergeBits]
  have hm : (0x00E0#16).getLsbD j = false := by
    by_cases hj : j < 16
    · interval_cases j <;> first | rfl | omega
    · exact BitVec.getLsbD_of_ge _ _ (by omega)
  simp [hm]

/-- A merged word agrees with its sources where the mask is a whole field. -/
theorem mergeBits_and_mask (old new mask : Word) : mergeBits old new mask &&& mask = new &&& mask := by
  apply BitVec.eq_of_getLsbD_eq
  intro j hj
  simp only [BitVec.getLsbD_and, getLsbD_mergeBits]
  cases mask.getLsbD j <;> simp

/-- Outside the mask a merged word is the old one. -/
theorem mergeBits_and_not_mask (old new mask : Word) : mergeBits old new mask &&& ~~~mask = old &&& ~~~mask := by
  apply BitVec.eq_of_getLsbD_eq
  intro j hj
  simp only [BitVec.getLsbD_and, getLsbD_mergeBits, BitVec.getLsbD_not]
  cases mask.getLsbD j <;> simp

/-- A bit of a bank after a bit of it is set. -/
theorem bankBit_bankSet (v : Vector Word 16) (m n : Nat) :
    bankBit (bankSet v m) n = (decide (n = m ∧ m / 16 < 16) || bankBit v n) := by
  unfold bankBit bankSet
  by_cases hm : m / 16 < 16
  · by_cases hn : n / 16 < 16
    · simp only [hm, hn, dif_pos]
      by_cases he : m / 16 = n / 16
      · have hg : (v.set (m / 16) (setBit v[m / 16] (m % 16) true))[n / 16] = setBit v[m / 16] (m % 16) true := by
          simp [he]
        rw [hg, getLsbD_setBit]
        by_cases hb : n % 16 = m % 16
        · have : n = m := by omega
          subst this
          have hlt : n % 16 < 16 := Nat.mod_lt _ (by omega)
          simp [hlt]
        · have : ¬ n = m := fun h => hb (by rw [h])
          simp [hb, this, he]
      · have hg : (v.set (m / 16) (setBit v[m / 16] (m % 16) true))[n / 16] = v[n / 16] := by
          simp [he]
        have : ¬ n = m := fun h => he (by rw [h])
        rw [hg]; simp [this]
    · have : ¬ n = m := fun h => hn (by rw [h]; exact hm)
      simp [hm, hn, this]
  · simp [hm]

end Sys2Proof.Machine
end

