-- ==== Sys2Proof/Laws/Memory.lean ====
section
/-! SUPPORT. The laws of a memory: a read after a write, the canonical form, and equality of what is read. -/

namespace Sys2Proof.Machine

open Sys2Proof

/-- Every listed address of a memory lies above a bound. -/
def Memory.above (m : Memory) (k : Nat) : Prop := ∀ c ∈ m, k < c.1

theorem Memory.wf_cons {u : Option Byte} {k : Nat} {v : Byte} {m : Memory} :
    Memory.wf u ((k, v) :: m) = true ↔ u ≠ some v ∧ Memory.above m k ∧ Memory.wf u m = true := by
  simp [Memory.wf, Memory.above, and_assoc]

theorem Memory.get_above {m : Memory} {k a : Nat} (h : Memory.above m k) (ha : a ≤ k) : Memory.get m a = none := by
  induction m with
  | nil => rfl
  | cons c m ih =>
    have hc : k < c.1 := h c (by simp)
    have hne : c.1 ≠ a := by omega
    have hm : Memory.above m k := fun d hd => h d (by simp [hd])
    simp [Memory.get, hne, ih hm]

theorem Memory.set_above {u : Option Byte} {m : Memory} {k a : Nat} {v : Byte} (h : Memory.above m k) (ha : k < a) :
    Memory.above (Memory.set u m a v) k := by
  induction m with
  | nil =>
    simp only [Memory.set]
    split <;> simp [Memory.above, ha]
  | cons c m ih =>
    obtain ⟨j, w⟩ := c
    have hj : k < j := h (j, w) (by simp)
    have hm : Memory.above m k := fun d hd => h d (by simp [hd])
    have hs := ih hm
    simp only [Memory.set]
    split
    · split
      · exact h
      · intro d hd
        rcases List.mem_cons.1 hd with rfl | hd
        · exact ha
        · exact h d hd
    · split
      · split
        · exact hm
        · intro d hd
          rcases List.mem_cons.1 hd with rfl | hd
          · exact ha
          · exact hm d hd
      · intro d hd
        rcases List.mem_cons.1 hd with rfl | hd
        · exact hj
        · exact hs d hd

/-- A write keeps the canonical form. -/
theorem Memory.set_wf {u : Option Byte} {m : Memory} (h : Memory.wf u m = true) (a : Nat) (v : Byte) :
    Memory.wf u (Memory.set u m a v) = true := by
  induction m with
  | nil =>
    simp only [Memory.set]
    split
    · rfl
    · rename_i hv
      simp [Memory.wf, hv]
  | cons c m ih =>
    obtain ⟨j, w⟩ := c
    obtain ⟨hw, hab, hm⟩ := Memory.wf_cons.1 h
    simp only [Memory.set]
    split
    · rename_i haj
      split
      · exact h
      · rename_i hv
        refine Memory.wf_cons.2 ⟨hv, ?_, h⟩
        intro d hd
        rcases List.mem_cons.1 hd with rfl | hd
        · exact haj
        · exact Nat.lt_trans haj (hab d hd)
    · rename_i hnlt
      split
      · rename_i heq
        subst heq
        split
        · exact hm
        · rename_i hv
          exact Memory.wf_cons.2 ⟨hv, hab, hm⟩
      · rename_i hne
        exact Memory.wf_cons.2 ⟨hw, Memory.set_above hab (by omega), ih hm⟩

/-- What a memory reads at an address, an unlisted address reading as `u`. -/
def Memory.read (u : Option Byte) (m : Memory) (a : Nat) : Option Byte := (Memory.get m a).or u

/-- A read after a write: the written byte at its address, the old one elsewhere. -/
theorem Memory.read_set {u : Option Byte} {m : Memory} (h : Memory.wf u m = true) (a b : Nat) (v : Byte) :
    Memory.read u (Memory.set u m a v) b = if b = a then some v else Memory.read u m b := by
  induction m with
  | nil =>
    simp only [Memory.set]
    split
    · rename_i hv
      split <;> simp [Memory.read, Memory.get, hv]
    · simp only [Memory.read, Memory.get, eq_comm]
      split <;> simp
  | cons c m ih =>
    obtain ⟨j, w⟩ := c
    obtain ⟨hw, hab, hm⟩ := Memory.wf_cons.1 h
    have ih' := ih hm
    simp only [Memory.set]
    split
    · rename_i haj
      have hnone : Memory.get ((j, w) :: m) a = none :=
        Memory.get_above (k := a) (fun d hd => by
          rcases List.mem_cons.1 hd with rfl | hd
          · exact haj
          · exact Nat.lt_trans haj (hab d hd)) (Nat.le_refl a)
      split
      · rename_i hv
        split
        · rename_i hb
          subst hb
          simp [Memory.read, hnone, hv]
        · rfl
      · by_cases hb : b = a
        · subst hb
          simp [Memory.read, Memory.get]
        · have : a ≠ b := fun h => hb h.symm
          rw [if_neg hb]
          simp only [Memory.read]
          rw [Memory.get, if_neg this]
    · split
      · rename_i hnlt heq
        subst heq
        split
        · rename_i hv
          by_cases hb : b = a
          · subst hb
            simp [Memory.read, Memory.get_above hab (Nat.le_refl b), hv]
          · have : a ≠ b := fun h => hb h.symm
            simp [Memory.read, Memory.get, hb, this]
        · by_cases hb : b = a
          · subst hb
            simp [Memory.read, Memory.get]
          · have : a ≠ b := fun h => hb h.symm
            simp [Memory.read, Memory.get, hb, this]
      · rename_i hnlt hne
        by_cases hb : j = b
        · subst hb
          have : j ≠ a := fun h => hne h.symm
          simp [Memory.read, Memory.get, this]
        · have e1 : Memory.read u ((j, w) :: Memory.set u m a v) b = Memory.read u (Memory.set u m a v) b := by
            simp [Memory.read, Memory.get, hb]
          have e2 : Memory.read u ((j, w) :: m) b = Memory.read u m b := by simp [Memory.read, Memory.get, hb]
          rw [e1, e2, ih']

/-- In data memory a read after a write needs no canonical form. -/
theorem Memory.get_set_ram (m : Memory) (a b : Nat) (v : Byte) :
    Memory.get (Memory.set ramUnlisted m a v) b = if b = a then some v else Memory.get m b := by
  induction m with
  | nil => simp [Memory.set, ramUnlisted, Memory.get, eq_comm]
  | cons c m ih =>
    obtain ⟨j, w⟩ := c
    have hno : ¬ (ramUnlisted = some v) := by simp [ramUnlisted]
    simp only [Memory.set, if_neg hno]
    by_cases h1 : a < j
    · simp only [h1, if_true, Memory.get]
      by_cases hb : b = a
      · subst hb; simp
      · have : a ≠ b := fun h => hb h.symm
        simp [hb, this]
    · by_cases h2 : a = j
      · subst h2
        simp only [Nat.lt_irrefl, if_false, if_true, Memory.get]
        by_cases hb : b = a
        · subst hb; simp
        · have : a ≠ b := fun h => hb h.symm
          simp [hb, this]
      · simp only [h1, h2, if_false, Memory.get, ih]
        by_cases hb : j = b
        · subst hb
          have : j ≠ a := fun h => h2 h.symm
          simp [this]
        · simp [hb]

end Sys2Proof.Machine
end

