-- ==== Sys2Proof/Laws/State.lean ====
section
/-! SUPPORT. What each plain update of State leaves of each field: one lemma for each field and update, true by rfl. -/

namespace Sys2Proof.Machine

open Sys2Proof

/-! ### draw -/

@[simp] theorem State.draw_pc (s : State) : (s.draw).pc = s.pc := rfl
@[simp] theorem State.draw_w (s : State) : (s.draw).w = s.w := rfl
@[simp] theorem State.draw_alt1 (s : State) : (s.draw).alt1 = s.alt1 := rfl
@[simp] theorem State.draw_alt2 (s : State) : (s.draw).alt2 = s.alt2 := rfl
@[simp] theorem State.draw_w15 (s : State) : (s.draw).w15 = s.w15 := rfl
@[simp] theorem State.draw_sr (s : State) : (s.draw).sr = s.sr := rfl
@[simp] theorem State.draw_corcon (s : State) : (s.draw).corcon = s.corcon := rfl
@[simp] theorem State.draw_intcon1 (s : State) : (s.draw).intcon1 = s.intcon1 := rfl
@[simp] theorem State.draw_intcon2 (s : State) : (s.draw).intcon2 = s.intcon2 := rfl
@[simp] theorem State.draw_intcon3 (s : State) : (s.draw).intcon3 = s.intcon3 := rfl
@[simp] theorem State.draw_intcon4 (s : State) : (s.draw).intcon4 = s.intcon4 := rfl
@[simp] theorem State.draw_ifs (s : State) : (s.draw).ifs = s.ifs := rfl
@[simp] theorem State.draw_iec (s : State) : (s.draw).iec = s.iec := rfl
@[simp] theorem State.draw_ipc (s : State) : (s.draw).ipc = s.ipc := rfl
@[simp] theorem State.draw_inttreg (s : State) : (s.draw).inttreg = s.inttreg := rfl
@[simp] theorem State.draw_disicnt (s : State) : (s.draw).disicnt = s.disicnt := rfl
@[simp] theorem State.draw_splim (s : State) : (s.draw).splim = s.splim := rfl
@[simp] theorem State.draw_rcon (s : State) : (s.draw).rcon = s.rcon := rfl
@[simp] theorem State.draw_osccon (s : State) : (s.draw).osccon = s.osccon := rfl
@[simp] theorem State.draw_dsrpag (s : State) : (s.draw).dsrpag = s.dsrpag := rfl
@[simp] theorem State.draw_dswpag (s : State) : (s.draw).dswpag = s.dswpag := rfl
@[simp] theorem State.draw_accA (s : State) : (s.draw).accA = s.accA := rfl
@[simp] theorem State.draw_accB (s : State) : (s.draw).accB = s.accB := rfl
@[simp] theorem State.draw_doStack (s : State) : (s.draw).doStack = s.doStack := rfl
@[simp] theorem State.draw_ram (s : State) : (s.draw).ram = s.ram := rfl
@[simp] theorem State.draw_prog (s : State) : (s.draw).prog = s.prog := rfl
@[simp] theorem State.draw_dev (s : State) : (s.draw).dev = s.dev := rfl
@[simp] theorem State.draw_splimWritten (s : State) : (s.draw).splimWritten = s.splimWritten := rfl
@[simp] theorem State.draw_activeCtx (s : State) : (s.draw).activeCtx = s.activeCtx := rfl
@[simp] theorem State.draw_ctxStack (s : State) : (s.draw).ctxStack = s.ctxStack := rfl
@[simp] theorem State.draw_gieLag (s : State) : (s.draw).gieLag = s.gieLag := rfl
@[simp] theorem State.draw_skid (s : State) : (s.draw).skid = s.skid := rfl
@[simp] theorem State.draw_skidBound (s : State) : (s.draw).skidBound = s.skidBound := rfl
@[simp] theorem State.draw_mode (s : State) : (s.draw).mode = s.mode := rfl
@[simp] theorem State.draw_pins (s : State) : (s.draw).pins = s.pins := rfl
@[simp] theorem State.draw_symbolic (s : State) : (s.draw).symbolic = s.symbolic := rfl
@[simp] theorem State.draw_env (s : State) : (s.draw).env = s.env := rfl
@[simp] theorem State.draw_ramSeed (s : State) : (s.draw).ramSeed = s.ramSeed := rfl
@[simp] theorem State.draw_free (s : State) : (s.draw).free = s.free + 1 := rfl
@[simp] theorem State.draw_log (s : State) : (s.draw).log = s.log := rfl

/-! ### fresh -/

@[simp] theorem State.fresh_pc (s : State) : (s.fresh).pc = s.pc := rfl
@[simp] theorem State.fresh_w (s : State) : (s.fresh).w = s.w := rfl
@[simp] theorem State.fresh_alt1 (s : State) : (s.fresh).alt1 = s.alt1 := rfl
@[simp] theorem State.fresh_alt2 (s : State) : (s.fresh).alt2 = s.alt2 := rfl
@[simp] theorem State.fresh_w15 (s : State) : (s.fresh).w15 = s.w15 := rfl
@[simp] theorem State.fresh_sr (s : State) : (s.fresh).sr = s.sr := rfl
@[simp] theorem State.fresh_corcon (s : State) : (s.fresh).corcon = s.corcon := rfl
@[simp] theorem State.fresh_intcon1 (s : State) : (s.fresh).intcon1 = s.intcon1 := rfl
@[simp] theorem State.fresh_intcon2 (s : State) : (s.fresh).intcon2 = s.intcon2 := rfl
@[simp] theorem State.fresh_intcon3 (s : State) : (s.fresh).intcon3 = s.intcon3 := rfl
@[simp] theorem State.fresh_intcon4 (s : State) : (s.fresh).intcon4 = s.intcon4 := rfl
@[simp] theorem State.fresh_ifs (s : State) : (s.fresh).ifs = s.ifs := rfl
@[simp] theorem State.fresh_iec (s : State) : (s.fresh).iec = s.iec := rfl
@[simp] theorem State.fresh_ipc (s : State) : (s.fresh).ipc = s.ipc := rfl
@[simp] theorem State.fresh_inttreg (s : State) : (s.fresh).inttreg = s.inttreg := rfl
@[simp] theorem State.fresh_disicnt (s : State) : (s.fresh).disicnt = s.disicnt := rfl
@[simp] theorem State.fresh_splim (s : State) : (s.fresh).splim = s.splim := rfl
@[simp] theorem State.fresh_rcon (s : State) : (s.fresh).rcon = s.rcon := rfl
@[simp] theorem State.fresh_osccon (s : State) : (s.fresh).osccon = s.osccon := rfl
@[simp] theorem State.fresh_dsrpag (s : State) : (s.fresh).dsrpag = s.dsrpag := rfl
@[simp] theorem State.fresh_dswpag (s : State) : (s.fresh).dswpag = s.dswpag := rfl
@[simp] theorem State.fresh_accA (s : State) : (s.fresh).accA = s.accA := rfl
@[simp] theorem State.fresh_accB (s : State) : (s.fresh).accB = s.accB := rfl
@[simp] theorem State.fresh_doStack (s : State) : (s.fresh).doStack = s.doStack := rfl
@[simp] theorem State.fresh_ram (s : State) : (s.fresh).ram = s.ram := rfl
@[simp] theorem State.fresh_prog (s : State) : (s.fresh).prog = s.prog := rfl
@[simp] theorem State.fresh_dev (s : State) : (s.fresh).dev = s.dev := rfl
@[simp] theorem State.fresh_splimWritten (s : State) : (s.fresh).splimWritten = s.splimWritten := rfl
@[simp] theorem State.fresh_activeCtx (s : State) : (s.fresh).activeCtx = s.activeCtx := rfl
@[simp] theorem State.fresh_ctxStack (s : State) : (s.fresh).ctxStack = s.ctxStack := rfl
@[simp] theorem State.fresh_gieLag (s : State) : (s.fresh).gieLag = s.gieLag := rfl
@[simp] theorem State.fresh_skid (s : State) : (s.fresh).skid = s.skid := rfl
@[simp] theorem State.fresh_skidBound (s : State) : (s.fresh).skidBound = s.skidBound := rfl
@[simp] theorem State.fresh_mode (s : State) : (s.fresh).mode = s.mode := rfl
@[simp] theorem State.fresh_pins (s : State) : (s.fresh).pins = s.pins := rfl
@[simp] theorem State.fresh_symbolic (s : State) : (s.fresh).symbolic = s.symbolic := rfl
@[simp] theorem State.fresh_env (s : State) : (s.fresh).env = s.env := rfl
@[simp] theorem State.fresh_ramSeed (s : State) : (s.fresh).ramSeed = s.ramSeed := rfl
@[simp] theorem State.fresh_free (s : State) : (s.fresh).free = s.free := rfl
@[simp] theorem State.fresh_log (s : State) : (s.fresh).log = {} := rfl

/-! ### setPc -/

@[simp] theorem State.setPc_pc (s : State) (a : PAddr) : (s.setPc a).pc = a := rfl
@[simp] theorem State.setPc_w (s : State) (a : PAddr) : (s.setPc a).w = s.w := rfl
@[simp] theorem State.setPc_alt1 (s : State) (a : PAddr) : (s.setPc a).alt1 = s.alt1 := rfl
@[simp] theorem State.setPc_alt2 (s : State) (a : PAddr) : (s.setPc a).alt2 = s.alt2 := rfl
@[simp] theorem State.setPc_w15 (s : State) (a : PAddr) : (s.setPc a).w15 = s.w15 := rfl
@[simp] theorem State.setPc_sr (s : State) (a : PAddr) : (s.setPc a).sr = s.sr := rfl
@[simp] theorem State.setPc_corcon (s : State) (a : PAddr) : (s.setPc a).corcon = s.corcon := rfl
@[simp] theorem State.setPc_intcon1 (s : State) (a : PAddr) : (s.setPc a).intcon1 = s.intcon1 := rfl
@[simp] theorem State.setPc_intcon2 (s : State) (a : PAddr) : (s.setPc a).intcon2 = s.intcon2 := rfl
@[simp] theorem State.setPc_intcon3 (s : State) (a : PAddr) : (s.setPc a).intcon3 = s.intcon3 := rfl
@[simp] theorem State.setPc_intcon4 (s : State) (a : PAddr) : (s.setPc a).intcon4 = s.intcon4 := rfl
@[simp] theorem State.setPc_ifs (s : State) (a : PAddr) : (s.setPc a).ifs = s.ifs := rfl
@[simp] theorem State.setPc_iec (s : State) (a : PAddr) : (s.setPc a).iec = s.iec := rfl
@[simp] theorem State.setPc_ipc (s : State) (a : PAddr) : (s.setPc a).ipc = s.ipc := rfl
@[simp] theorem State.setPc_inttreg (s : State) (a : PAddr) : (s.setPc a).inttreg = s.inttreg := rfl
@[simp] theorem State.setPc_disicnt (s : State) (a : PAddr) : (s.setPc a).disicnt = s.disicnt := rfl
@[simp] theorem State.setPc_splim (s : State) (a : PAddr) : (s.setPc a).splim = s.splim := rfl
@[simp] theorem State.setPc_rcon (s : State) (a : PAddr) : (s.setPc a).rcon = s.rcon := rfl
@[simp] theorem State.setPc_osccon (s : State) (a : PAddr) : (s.setPc a).osccon = s.osccon := rfl
@[simp] theorem State.setPc_dsrpag (s : State) (a : PAddr) : (s.setPc a).dsrpag = s.dsrpag := rfl
@[simp] theorem State.setPc_dswpag (s : State) (a : PAddr) : (s.setPc a).dswpag = s.dswpag := rfl
@[simp] theorem State.setPc_accA (s : State) (a : PAddr) : (s.setPc a).accA = s.accA := rfl
@[simp] theorem State.setPc_accB (s : State) (a : PAddr) : (s.setPc a).accB = s.accB := rfl
@[simp] theorem State.setPc_doStack (s : State) (a : PAddr) : (s.setPc a).doStack = s.doStack := rfl
@[simp] theorem State.setPc_ram (s : State) (a : PAddr) : (s.setPc a).ram = s.ram := rfl
@[simp] theorem State.setPc_prog (s : State) (a : PAddr) : (s.setPc a).prog = s.prog := rfl
@[simp] theorem State.setPc_dev (s : State) (a : PAddr) : (s.setPc a).dev = s.dev := rfl
@[simp] theorem State.setPc_splimWritten (s : State) (a : PAddr) : (s.setPc a).splimWritten = s.splimWritten := rfl
@[simp] theorem State.setPc_activeCtx (s : State) (a : PAddr) : (s.setPc a).activeCtx = s.activeCtx := rfl
@[simp] theorem State.setPc_ctxStack (s : State) (a : PAddr) : (s.setPc a).ctxStack = s.ctxStack := rfl
@[simp] theorem State.setPc_gieLag (s : State) (a : PAddr) : (s.setPc a).gieLag = s.gieLag := rfl
@[simp] theorem State.setPc_skid (s : State) (a : PAddr) : (s.setPc a).skid = s.skid := rfl
@[simp] theorem State.setPc_skidBound (s : State) (a : PAddr) : (s.setPc a).skidBound = s.skidBound := rfl
@[simp] theorem State.setPc_mode (s : State) (a : PAddr) : (s.setPc a).mode = s.mode := rfl
@[simp] theorem State.setPc_pins (s : State) (a : PAddr) : (s.setPc a).pins = s.pins := rfl
@[simp] theorem State.setPc_symbolic (s : State) (a : PAddr) : (s.setPc a).symbolic = s.symbolic := rfl
@[simp] theorem State.setPc_env (s : State) (a : PAddr) : (s.setPc a).env = s.env := rfl
@[simp] theorem State.setPc_ramSeed (s : State) (a : PAddr) : (s.setPc a).ramSeed = s.ramSeed := rfl
@[simp] theorem State.setPc_free (s : State) (a : PAddr) : (s.setPc a).free = s.free := rfl
@[simp] theorem State.setPc_log (s : State) (a : PAddr) : (s.setPc a).log = s.log := rfl

/-! ### advance -/

@[simp] theorem State.advance_pc (s : State) : (s.advance).pc = s.pc + 2 := rfl
@[simp] theorem State.advance_w (s : State) : (s.advance).w = s.w := rfl
@[simp] theorem State.advance_alt1 (s : State) : (s.advance).alt1 = s.alt1 := rfl
@[simp] theorem State.advance_alt2 (s : State) : (s.advance).alt2 = s.alt2 := rfl
@[simp] theorem State.advance_w15 (s : State) : (s.advance).w15 = s.w15 := rfl
@[simp] theorem State.advance_sr (s : State) : (s.advance).sr = s.sr := rfl
@[simp] theorem State.advance_corcon (s : State) : (s.advance).corcon = s.corcon := rfl
@[simp] theorem State.advance_intcon1 (s : State) : (s.advance).intcon1 = s.intcon1 := rfl
@[simp] theorem State.advance_intcon2 (s : State) : (s.advance).intcon2 = s.intcon2 := rfl
@[simp] theorem State.advance_intcon3 (s : State) : (s.advance).intcon3 = s.intcon3 := rfl
@[simp] theorem State.advance_intcon4 (s : State) : (s.advance).intcon4 = s.intcon4 := rfl
@[simp] theorem State.advance_ifs (s : State) : (s.advance).ifs = s.ifs := rfl
@[simp] theorem State.advance_iec (s : State) : (s.advance).iec = s.iec := rfl
@[simp] theorem State.advance_ipc (s : State) : (s.advance).ipc = s.ipc := rfl
@[simp] theorem State.advance_inttreg (s : State) : (s.advance).inttreg = s.inttreg := rfl
@[simp] theorem State.advance_disicnt (s : State) : (s.advance).disicnt = s.disicnt := rfl
@[simp] theorem State.advance_splim (s : State) : (s.advance).splim = s.splim := rfl
@[simp] theorem State.advance_rcon (s : State) : (s.advance).rcon = s.rcon := rfl
@[simp] theorem State.advance_osccon (s : State) : (s.advance).osccon = s.osccon := rfl
@[simp] theorem State.advance_dsrpag (s : State) : (s.advance).dsrpag = s.dsrpag := rfl
@[simp] theorem State.advance_dswpag (s : State) : (s.advance).dswpag = s.dswpag := rfl
@[simp] theorem State.advance_accA (s : State) : (s.advance).accA = s.accA := rfl
@[simp] theorem State.advance_accB (s : State) : (s.advance).accB = s.accB := rfl
@[simp] theorem State.advance_doStack (s : State) : (s.advance).doStack = s.doStack := rfl
@[simp] theorem State.advance_ram (s : State) : (s.advance).ram = s.ram := rfl
@[simp] theorem State.advance_prog (s : State) : (s.advance).prog = s.prog := rfl
@[simp] theorem State.advance_dev (s : State) : (s.advance).dev = s.dev := rfl
@[simp] theorem State.advance_splimWritten (s : State) : (s.advance).splimWritten = s.splimWritten := rfl
@[simp] theorem State.advance_activeCtx (s : State) : (s.advance).activeCtx = s.activeCtx := rfl
@[simp] theorem State.advance_ctxStack (s : State) : (s.advance).ctxStack = s.ctxStack := rfl
@[simp] theorem State.advance_gieLag (s : State) : (s.advance).gieLag = s.gieLag := rfl
@[simp] theorem State.advance_skid (s : State) : (s.advance).skid = s.skid := rfl
@[simp] theorem State.advance_skidBound (s : State) : (s.advance).skidBound = s.skidBound := rfl
@[simp] theorem State.advance_mode (s : State) : (s.advance).mode = s.mode := rfl
@[simp] theorem State.advance_pins (s : State) : (s.advance).pins = s.pins := rfl
@[simp] theorem State.advance_symbolic (s : State) : (s.advance).symbolic = s.symbolic := rfl
@[simp] theorem State.advance_env (s : State) : (s.advance).env = s.env := rfl
@[simp] theorem State.advance_ramSeed (s : State) : (s.advance).ramSeed = s.ramSeed := rfl
@[simp] theorem State.advance_free (s : State) : (s.advance).free = s.free := rfl
@[simp] theorem State.advance_log (s : State) : (s.advance).log = s.log := rfl

/-! ### orIntcon1 -/

@[simp] theorem State.orIntcon1_pc (s : State) (m : Word) : (s.orIntcon1 m).pc = s.pc := rfl
@[simp] theorem State.orIntcon1_w (s : State) (m : Word) : (s.orIntcon1 m).w = s.w := rfl
@[simp] theorem State.orIntcon1_alt1 (s : State) (m : Word) : (s.orIntcon1 m).alt1 = s.alt1 := rfl
@[simp] theorem State.orIntcon1_alt2 (s : State) (m : Word) : (s.orIntcon1 m).alt2 = s.alt2 := rfl
@[simp] theorem State.orIntcon1_w15 (s : State) (m : Word) : (s.orIntcon1 m).w15 = s.w15 := rfl
@[simp] theorem State.orIntcon1_sr (s : State) (m : Word) : (s.orIntcon1 m).sr = s.sr := rfl
@[simp] theorem State.orIntcon1_corcon (s : State) (m : Word) : (s.orIntcon1 m).corcon = s.corcon := rfl
@[simp] theorem State.orIntcon1_intcon1 (s : State) (m : Word) : (s.orIntcon1 m).intcon1 = s.intcon1 ||| m := rfl
@[simp] theorem State.orIntcon1_intcon2 (s : State) (m : Word) : (s.orIntcon1 m).intcon2 = s.intcon2 := rfl
@[simp] theorem State.orIntcon1_intcon3 (s : State) (m : Word) : (s.orIntcon1 m).intcon3 = s.intcon3 := rfl
@[simp] theorem State.orIntcon1_intcon4 (s : State) (m : Word) : (s.orIntcon1 m).intcon4 = s.intcon4 := rfl
@[simp] theorem State.orIntcon1_ifs (s : State) (m : Word) : (s.orIntcon1 m).ifs = s.ifs := rfl
@[simp] theorem State.orIntcon1_iec (s : State) (m : Word) : (s.orIntcon1 m).iec = s.iec := rfl
@[simp] theorem State.orIntcon1_ipc (s : State) (m : Word) : (s.orIntcon1 m).ipc = s.ipc := rfl
@[simp] theorem State.orIntcon1_inttreg (s : State) (m : Word) : (s.orIntcon1 m).inttreg = s.inttreg := rfl
@[simp] theorem State.orIntcon1_disicnt (s : State) (m : Word) : (s.orIntcon1 m).disicnt = s.disicnt := rfl
@[simp] theorem State.orIntcon1_splim (s : State) (m : Word) : (s.orIntcon1 m).splim = s.splim := rfl
@[simp] theorem State.orIntcon1_rcon (s : State) (m : Word) : (s.orIntcon1 m).rcon = s.rcon := rfl
@[simp] theorem State.orIntcon1_osccon (s : State) (m : Word) : (s.orIntcon1 m).osccon = s.osccon := rfl
@[simp] theorem State.orIntcon1_dsrpag (s : State) (m : Word) : (s.orIntcon1 m).dsrpag = s.dsrpag := rfl
@[simp] theorem State.orIntcon1_dswpag (s : State) (m : Word) : (s.orIntcon1 m).dswpag = s.dswpag := rfl
@[simp] theorem State.orIntcon1_accA (s : State) (m : Word) : (s.orIntcon1 m).accA = s.accA := rfl
@[simp] theorem State.orIntcon1_accB (s : State) (m : Word) : (s.orIntcon1 m).accB = s.accB := rfl
@[simp] theorem State.orIntcon1_doStack (s : State) (m : Word) : (s.orIntcon1 m).doStack = s.doStack := rfl
@[simp] theorem State.orIntcon1_ram (s : State) (m : Word) : (s.orIntcon1 m).ram = s.ram := rfl
@[simp] theorem State.orIntcon1_prog (s : State) (m : Word) : (s.orIntcon1 m).prog = s.prog := rfl
@[simp] theorem State.orIntcon1_dev (s : State) (m : Word) : (s.orIntcon1 m).dev = s.dev := rfl
@[simp] theorem State.orIntcon1_splimWritten (s : State) (m : Word) : (s.orIntcon1 m).splimWritten = s.splimWritten := rfl
@[simp] theorem State.orIntcon1_activeCtx (s : State) (m : Word) : (s.orIntcon1 m).activeCtx = s.activeCtx := rfl
@[simp] theorem State.orIntcon1_ctxStack (s : State) (m : Word) : (s.orIntcon1 m).ctxStack = s.ctxStack := rfl
@[simp] theorem State.orIntcon1_gieLag (s : State) (m : Word) : (s.orIntcon1 m).gieLag = s.gieLag := rfl
@[simp] theorem State.orIntcon1_skid (s : State) (m : Word) : (s.orIntcon1 m).skid = s.skid := rfl
@[simp] theorem State.orIntcon1_skidBound (s : State) (m : Word) : (s.orIntcon1 m).skidBound = s.skidBound := rfl
@[simp] theorem State.orIntcon1_mode (s : State) (m : Word) : (s.orIntcon1 m).mode = s.mode := rfl
@[simp] theorem State.orIntcon1_pins (s : State) (m : Word) : (s.orIntcon1 m).pins = s.pins := rfl
@[simp] theorem State.orIntcon1_symbolic (s : State) (m : Word) : (s.orIntcon1 m).symbolic = s.symbolic := rfl
@[simp] theorem State.orIntcon1_env (s : State) (m : Word) : (s.orIntcon1 m).env = s.env := rfl
@[simp] theorem State.orIntcon1_ramSeed (s : State) (m : Word) : (s.orIntcon1 m).ramSeed = s.ramSeed := rfl
@[simp] theorem State.orIntcon1_free (s : State) (m : Word) : (s.orIntcon1 m).free = s.free := rfl
@[simp] theorem State.orIntcon1_log (s : State) (m : Word) : (s.orIntcon1 m).log = s.log := rfl

/-! ### orIntcon3 -/

@[simp] theorem State.orIntcon3_pc (s : State) (m : Word) : (s.orIntcon3 m).pc = s.pc := rfl
@[simp] theorem State.orIntcon3_w (s : State) (m : Word) : (s.orIntcon3 m).w = s.w := rfl
@[simp] theorem State.orIntcon3_alt1 (s : State) (m : Word) : (s.orIntcon3 m).alt1 = s.alt1 := rfl
@[simp] theorem State.orIntcon3_alt2 (s : State) (m : Word) : (s.orIntcon3 m).alt2 = s.alt2 := rfl
@[simp] theorem State.orIntcon3_w15 (s : State) (m : Word) : (s.orIntcon3 m).w15 = s.w15 := rfl
@[simp] theorem State.orIntcon3_sr (s : State) (m : Word) : (s.orIntcon3 m).sr = s.sr := rfl
@[simp] theorem State.orIntcon3_corcon (s : State) (m : Word) : (s.orIntcon3 m).corcon = s.corcon := rfl
@[simp] theorem State.orIntcon3_intcon1 (s : State) (m : Word) : (s.orIntcon3 m).intcon1 = s.intcon1 := rfl
@[simp] theorem State.orIntcon3_intcon2 (s : State) (m : Word) : (s.orIntcon3 m).intcon2 = s.intcon2 := rfl
@[simp] theorem State.orIntcon3_intcon3 (s : State) (m : Word) : (s.orIntcon3 m).intcon3 = s.intcon3 ||| m := rfl
@[simp] theorem State.orIntcon3_intcon4 (s : State) (m : Word) : (s.orIntcon3 m).intcon4 = s.intcon4 := rfl
@[simp] theorem State.orIntcon3_ifs (s : State) (m : Word) : (s.orIntcon3 m).ifs = s.ifs := rfl
@[simp] theorem State.orIntcon3_iec (s : State) (m : Word) : (s.orIntcon3 m).iec = s.iec := rfl
@[simp] theorem State.orIntcon3_ipc (s : State) (m : Word) : (s.orIntcon3 m).ipc = s.ipc := rfl
@[simp] theorem State.orIntcon3_inttreg (s : State) (m : Word) : (s.orIntcon3 m).inttreg = s.inttreg := rfl
@[simp] theorem State.orIntcon3_disicnt (s : State) (m : Word) : (s.orIntcon3 m).disicnt = s.disicnt := rfl
@[simp] theorem State.orIntcon3_splim (s : State) (m : Word) : (s.orIntcon3 m).splim = s.splim := rfl
@[simp] theorem State.orIntcon3_rcon (s : State) (m : Word) : (s.orIntcon3 m).rcon = s.rcon := rfl
@[simp] theorem State.orIntcon3_osccon (s : State) (m : Word) : (s.orIntcon3 m).osccon = s.osccon := rfl
@[simp] theorem State.orIntcon3_dsrpag (s : State) (m : Word) : (s.orIntcon3 m).dsrpag = s.dsrpag := rfl
@[simp] theorem State.orIntcon3_dswpag (s : State) (m : Word) : (s.orIntcon3 m).dswpag = s.dswpag := rfl
@[simp] theorem State.orIntcon3_accA (s : State) (m : Word) : (s.orIntcon3 m).accA = s.accA := rfl
@[simp] theorem State.orIntcon3_accB (s : State) (m : Word) : (s.orIntcon3 m).accB = s.accB := rfl
@[simp] theorem State.orIntcon3_doStack (s : State) (m : Word) : (s.orIntcon3 m).doStack = s.doStack := rfl
@[simp] theorem State.orIntcon3_ram (s : State) (m : Word) : (s.orIntcon3 m).ram = s.ram := rfl
@[simp] theorem State.orIntcon3_prog (s : State) (m : Word) : (s.orIntcon3 m).prog = s.prog := rfl
@[simp] theorem State.orIntcon3_dev (s : State) (m : Word) : (s.orIntcon3 m).dev = s.dev := rfl
@[simp] theorem State.orIntcon3_splimWritten (s : State) (m : Word) : (s.orIntcon3 m).splimWritten = s.splimWritten := rfl
@[simp] theorem State.orIntcon3_activeCtx (s : State) (m : Word) : (s.orIntcon3 m).activeCtx = s.activeCtx := rfl
@[simp] theorem State.orIntcon3_ctxStack (s : State) (m : Word) : (s.orIntcon3 m).ctxStack = s.ctxStack := rfl
@[simp] theorem State.orIntcon3_gieLag (s : State) (m : Word) : (s.orIntcon3 m).gieLag = s.gieLag := rfl
@[simp] theorem State.orIntcon3_skid (s : State) (m : Word) : (s.orIntcon3 m).skid = s.skid := rfl
@[simp] theorem State.orIntcon3_skidBound (s : State) (m : Word) : (s.orIntcon3 m).skidBound = s.skidBound := rfl
@[simp] theorem State.orIntcon3_mode (s : State) (m : Word) : (s.orIntcon3 m).mode = s.mode := rfl
@[simp] theorem State.orIntcon3_pins (s : State) (m : Word) : (s.orIntcon3 m).pins = s.pins := rfl
@[simp] theorem State.orIntcon3_symbolic (s : State) (m : Word) : (s.orIntcon3 m).symbolic = s.symbolic := rfl
@[simp] theorem State.orIntcon3_env (s : State) (m : Word) : (s.orIntcon3 m).env = s.env := rfl
@[simp] theorem State.orIntcon3_ramSeed (s : State) (m : Word) : (s.orIntcon3 m).ramSeed = s.ramSeed := rfl
@[simp] theorem State.orIntcon3_free (s : State) (m : Word) : (s.orIntcon3 m).free = s.free := rfl
@[simp] theorem State.orIntcon3_log (s : State) (m : Word) : (s.orIntcon3 m).log = s.log := rfl

/-! ### execFlags -/

@[simp] theorem State.execFlags_pc (s : State) : (s.execFlags).pc = s.pc := rfl
@[simp] theorem State.execFlags_w (s : State) : (s.execFlags).w = s.w := rfl
@[simp] theorem State.execFlags_alt1 (s : State) : (s.execFlags).alt1 = s.alt1 := rfl
@[simp] theorem State.execFlags_alt2 (s : State) : (s.execFlags).alt2 = s.alt2 := rfl
@[simp] theorem State.execFlags_w15 (s : State) : (s.execFlags).w15 = s.w15 := rfl
@[simp] theorem State.execFlags_sr (s : State) : (s.execFlags).sr = mergeBits s.sr (Config.freeWord s.free) 0xFF1F := rfl
@[simp] theorem State.execFlags_corcon (s : State) : (s.execFlags).corcon = s.corcon := rfl
@[simp] theorem State.execFlags_intcon1 (s : State) : (s.execFlags).intcon1 = s.intcon1 := rfl
@[simp] theorem State.execFlags_intcon2 (s : State) : (s.execFlags).intcon2 = s.intcon2 := rfl
@[simp] theorem State.execFlags_intcon3 (s : State) : (s.execFlags).intcon3 = s.intcon3 := rfl
@[simp] theorem State.execFlags_intcon4 (s : State) : (s.execFlags).intcon4 = s.intcon4 := rfl
@[simp] theorem State.execFlags_ifs (s : State) : (s.execFlags).ifs = s.ifs := rfl
@[simp] theorem State.execFlags_iec (s : State) : (s.execFlags).iec = s.iec := rfl
@[simp] theorem State.execFlags_ipc (s : State) : (s.execFlags).ipc = s.ipc := rfl
@[simp] theorem State.execFlags_inttreg (s : State) : (s.execFlags).inttreg = s.inttreg := rfl
@[simp] theorem State.execFlags_disicnt (s : State) : (s.execFlags).disicnt = s.disicnt := rfl
@[simp] theorem State.execFlags_splim (s : State) : (s.execFlags).splim = s.splim := rfl
@[simp] theorem State.execFlags_rcon (s : State) : (s.execFlags).rcon = s.rcon := rfl
@[simp] theorem State.execFlags_osccon (s : State) : (s.execFlags).osccon = s.osccon := rfl
@[simp] theorem State.execFlags_dsrpag (s : State) : (s.execFlags).dsrpag = s.dsrpag := rfl
@[simp] theorem State.execFlags_dswpag (s : State) : (s.execFlags).dswpag = s.dswpag := rfl
@[simp] theorem State.execFlags_accA (s : State) : (s.execFlags).accA = s.accA := rfl
@[simp] theorem State.execFlags_accB (s : State) : (s.execFlags).accB = s.accB := rfl
@[simp] theorem State.execFlags_doStack (s : State) : (s.execFlags).doStack = s.doStack := rfl
@[simp] theorem State.execFlags_ram (s : State) : (s.execFlags).ram = s.ram := rfl
@[simp] theorem State.execFlags_prog (s : State) : (s.execFlags).prog = s.prog := rfl
@[simp] theorem State.execFlags_dev (s : State) : (s.execFlags).dev = s.dev := rfl
@[simp] theorem State.execFlags_splimWritten (s : State) : (s.execFlags).splimWritten = s.splimWritten := rfl
@[simp] theorem State.execFlags_activeCtx (s : State) : (s.execFlags).activeCtx = s.activeCtx := rfl
@[simp] theorem State.execFlags_ctxStack (s : State) : (s.execFlags).ctxStack = s.ctxStack := rfl
@[simp] theorem State.execFlags_gieLag (s : State) : (s.execFlags).gieLag = s.gieLag := rfl
@[simp] theorem State.execFlags_skid (s : State) : (s.execFlags).skid = s.skid := rfl
@[simp] theorem State.execFlags_skidBound (s : State) : (s.execFlags).skidBound = s.skidBound := rfl
@[simp] theorem State.execFlags_mode (s : State) : (s.execFlags).mode = s.mode := rfl
@[simp] theorem State.execFlags_pins (s : State) : (s.execFlags).pins = s.pins := rfl
@[simp] theorem State.execFlags_symbolic (s : State) : (s.execFlags).symbolic = s.symbolic := rfl
@[simp] theorem State.execFlags_env (s : State) : (s.execFlags).env = s.env := rfl
@[simp] theorem State.execFlags_ramSeed (s : State) : (s.execFlags).ramSeed = s.ramSeed := rfl
@[simp] theorem State.execFlags_free (s : State) : (s.execFlags).free = s.free + 1 := rfl
@[simp] theorem State.execFlags_log (s : State) : (s.execFlags).log = s.log := rfl

/-! ### setRamByte -/

@[simp] theorem State.setRamByte_pc (s : State) (a : Word) (v : Byte) : (s.setRamByte a v).pc = s.pc := rfl
@[simp] theorem State.setRamByte_w (s : State) (a : Word) (v : Byte) : (s.setRamByte a v).w = s.w := rfl
@[simp] theorem State.setRamByte_alt1 (s : State) (a : Word) (v : Byte) : (s.setRamByte a v).alt1 = s.alt1 := rfl
@[simp] theorem State.setRamByte_alt2 (s : State) (a : Word) (v : Byte) : (s.setRamByte a v).alt2 = s.alt2 := rfl
@[simp] theorem State.setRamByte_w15 (s : State) (a : Word) (v : Byte) : (s.setRamByte a v).w15 = s.w15 := rfl
@[simp] theorem State.setRamByte_sr (s : State) (a : Word) (v : Byte) : (s.setRamByte a v).sr = s.sr := rfl
@[simp] theorem State.setRamByte_corcon (s : State) (a : Word) (v : Byte) : (s.setRamByte a v).corcon = s.corcon := rfl
@[simp] theorem State.setRamByte_intcon1 (s : State) (a : Word) (v : Byte) : (s.setRamByte a v).intcon1 = s.intcon1 := rfl
@[simp] theorem State.setRamByte_intcon2 (s : State) (a : Word) (v : Byte) : (s.setRamByte a v).intcon2 = s.intcon2 := rfl
@[simp] theorem State.setRamByte_intcon3 (s : State) (a : Word) (v : Byte) : (s.setRamByte a v).intcon3 = s.intcon3 := rfl
@[simp] theorem State.setRamByte_intcon4 (s : State) (a : Word) (v : Byte) : (s.setRamByte a v).intcon4 = s.intcon4 := rfl
@[simp] theorem State.setRamByte_ifs (s : State) (a : Word) (v : Byte) : (s.setRamByte a v).ifs = s.ifs := rfl
@[simp] theorem State.setRamByte_iec (s : State) (a : Word) (v : Byte) : (s.setRamByte a v).iec = s.iec := rfl
@[simp] theorem State.setRamByte_ipc (s : State) (a : Word) (v : Byte) : (s.setRamByte a v).ipc = s.ipc := rfl
@[simp] theorem State.setRamByte_inttreg (s : State) (a : Word) (v : Byte) : (s.setRamByte a v).inttreg = s.inttreg := rfl
@[simp] theorem State.setRamByte_disicnt (s : State) (a : Word) (v : Byte) : (s.setRamByte a v).disicnt = s.disicnt := rfl
@[simp] theorem State.setRamByte_splim (s : State) (a : Word) (v : Byte) : (s.setRamByte a v).splim = s.splim := rfl
@[simp] theorem State.setRamByte_rcon (s : State) (a : Word) (v : Byte) : (s.setRamByte a v).rcon = s.rcon := rfl
@[simp] theorem State.setRamByte_osccon (s : State) (a : Word) (v : Byte) : (s.setRamByte a v).osccon = s.osccon := rfl
@[simp] theorem State.setRamByte_dsrpag (s : State) (a : Word) (v : Byte) : (s.setRamByte a v).dsrpag = s.dsrpag := rfl
@[simp] theorem State.setRamByte_dswpag (s : State) (a : Word) (v : Byte) : (s.setRamByte a v).dswpag = s.dswpag := rfl
@[simp] theorem State.setRamByte_accA (s : State) (a : Word) (v : Byte) : (s.setRamByte a v).accA = s.accA := rfl
@[simp] theorem State.setRamByte_accB (s : State) (a : Word) (v : Byte) : (s.setRamByte a v).accB = s.accB := rfl
@[simp] theorem State.setRamByte_doStack (s : State) (a : Word) (v : Byte) : (s.setRamByte a v).doStack = s.doStack := rfl
@[simp] theorem State.setRamByte_ram (s : State) (a : Word) (v : Byte) : (s.setRamByte a v).ram = Memory.set ramUnlisted s.ram a.toNat v := rfl
@[simp] theorem State.setRamByte_prog (s : State) (a : Word) (v : Byte) : (s.setRamByte a v).prog = s.prog := rfl
@[simp] theorem State.setRamByte_dev (s : State) (a : Word) (v : Byte) : (s.setRamByte a v).dev = s.dev := rfl
@[simp] theorem State.setRamByte_splimWritten (s : State) (a : Word) (v : Byte) : (s.setRamByte a v).splimWritten = s.splimWritten := rfl
@[simp] theorem State.setRamByte_activeCtx (s : State) (a : Word) (v : Byte) : (s.setRamByte a v).activeCtx = s.activeCtx := rfl
@[simp] theorem State.setRamByte_ctxStack (s : State) (a : Word) (v : Byte) : (s.setRamByte a v).ctxStack = s.ctxStack := rfl
@[simp] theorem State.setRamByte_gieLag (s : State) (a : Word) (v : Byte) : (s.setRamByte a v).gieLag = s.gieLag := rfl
@[simp] theorem State.setRamByte_skid (s : State) (a : Word) (v : Byte) : (s.setRamByte a v).skid = s.skid := rfl
@[simp] theorem State.setRamByte_skidBound (s : State) (a : Word) (v : Byte) : (s.setRamByte a v).skidBound = s.skidBound := rfl
@[simp] theorem State.setRamByte_mode (s : State) (a : Word) (v : Byte) : (s.setRamByte a v).mode = s.mode := rfl
@[simp] theorem State.setRamByte_pins (s : State) (a : Word) (v : Byte) : (s.setRamByte a v).pins = s.pins := rfl
@[simp] theorem State.setRamByte_symbolic (s : State) (a : Word) (v : Byte) : (s.setRamByte a v).symbolic = s.symbolic := rfl
@[simp] theorem State.setRamByte_env (s : State) (a : Word) (v : Byte) : (s.setRamByte a v).env = s.env := rfl
@[simp] theorem State.setRamByte_ramSeed (s : State) (a : Word) (v : Byte) : (s.setRamByte a v).ramSeed = s.ramSeed := rfl
@[simp] theorem State.setRamByte_free (s : State) (a : Word) (v : Byte) : (s.setRamByte a v).free = s.free := rfl
@[simp] theorem State.setRamByte_log (s : State) (a : Word) (v : Byte) : (s.setRamByte a v).log = s.log := rfl

/-! ### tickGie -/

@[simp] theorem State.tickGie_pc (s : State) : (s.tickGie).pc = s.pc := rfl
@[simp] theorem State.tickGie_w (s : State) : (s.tickGie).w = s.w := rfl
@[simp] theorem State.tickGie_alt1 (s : State) : (s.tickGie).alt1 = s.alt1 := rfl
@[simp] theorem State.tickGie_alt2 (s : State) : (s.tickGie).alt2 = s.alt2 := rfl
@[simp] theorem State.tickGie_w15 (s : State) : (s.tickGie).w15 = s.w15 := rfl
@[simp] theorem State.tickGie_sr (s : State) : (s.tickGie).sr = s.sr := rfl
@[simp] theorem State.tickGie_corcon (s : State) : (s.tickGie).corcon = s.corcon := rfl
@[simp] theorem State.tickGie_intcon1 (s : State) : (s.tickGie).intcon1 = s.intcon1 := rfl
@[simp] theorem State.tickGie_intcon2 (s : State) : (s.tickGie).intcon2 = s.intcon2 := rfl
@[simp] theorem State.tickGie_intcon3 (s : State) : (s.tickGie).intcon3 = s.intcon3 := rfl
@[simp] theorem State.tickGie_intcon4 (s : State) : (s.tickGie).intcon4 = s.intcon4 := rfl
@[simp] theorem State.tickGie_ifs (s : State) : (s.tickGie).ifs = s.ifs := rfl
@[simp] theorem State.tickGie_iec (s : State) : (s.tickGie).iec = s.iec := rfl
@[simp] theorem State.tickGie_ipc (s : State) : (s.tickGie).ipc = s.ipc := rfl
@[simp] theorem State.tickGie_inttreg (s : State) : (s.tickGie).inttreg = s.inttreg := rfl
@[simp] theorem State.tickGie_disicnt (s : State) : (s.tickGie).disicnt = s.disicnt := rfl
@[simp] theorem State.tickGie_splim (s : State) : (s.tickGie).splim = s.splim := rfl
@[simp] theorem State.tickGie_rcon (s : State) : (s.tickGie).rcon = s.rcon := rfl
@[simp] theorem State.tickGie_osccon (s : State) : (s.tickGie).osccon = s.osccon := rfl
@[simp] theorem State.tickGie_dsrpag (s : State) : (s.tickGie).dsrpag = s.dsrpag := rfl
@[simp] theorem State.tickGie_dswpag (s : State) : (s.tickGie).dswpag = s.dswpag := rfl
@[simp] theorem State.tickGie_accA (s : State) : (s.tickGie).accA = s.accA := rfl
@[simp] theorem State.tickGie_accB (s : State) : (s.tickGie).accB = s.accB := rfl
@[simp] theorem State.tickGie_doStack (s : State) : (s.tickGie).doStack = s.doStack := rfl
@[simp] theorem State.tickGie_ram (s : State) : (s.tickGie).ram = s.ram := rfl
@[simp] theorem State.tickGie_prog (s : State) : (s.tickGie).prog = s.prog := rfl
@[simp] theorem State.tickGie_dev (s : State) : (s.tickGie).dev = s.dev := rfl
@[simp] theorem State.tickGie_splimWritten (s : State) : (s.tickGie).splimWritten = s.splimWritten := rfl
@[simp] theorem State.tickGie_activeCtx (s : State) : (s.tickGie).activeCtx = s.activeCtx := rfl
@[simp] theorem State.tickGie_ctxStack (s : State) : (s.tickGie).ctxStack = s.ctxStack := rfl
@[simp] theorem State.tickGie_gieLag (s : State) : (s.tickGie).gieLag = s.gieLag - 1 := rfl
@[simp] theorem State.tickGie_skid (s : State) : (s.tickGie).skid = s.skid := rfl
@[simp] theorem State.tickGie_skidBound (s : State) : (s.tickGie).skidBound = s.skidBound := rfl
@[simp] theorem State.tickGie_mode (s : State) : (s.tickGie).mode = s.mode := rfl
@[simp] theorem State.tickGie_pins (s : State) : (s.tickGie).pins = s.pins := rfl
@[simp] theorem State.tickGie_symbolic (s : State) : (s.tickGie).symbolic = s.symbolic := rfl
@[simp] theorem State.tickGie_env (s : State) : (s.tickGie).env = s.env := rfl
@[simp] theorem State.tickGie_ramSeed (s : State) : (s.tickGie).ramSeed = s.ramSeed := rfl
@[simp] theorem State.tickGie_free (s : State) : (s.tickGie).free = s.free := rfl
@[simp] theorem State.tickGie_log (s : State) : (s.tickGie).log = s.log := rfl

end Sys2Proof.Machine
end

