-- ==== Sys2Proof/Laws/Ops.lean ====
section
/-! SUPPORT. What each shared operation can do, said once: which fields it may change (a frame, in the form that the result is
the old state with those fields taken from the result) and what it does to them. -/

namespace Sys2Proof.Machine

open Sys2Proof

/-! ### Sequencing -/

@[simp] theorem andThen_next (s : State) (f : State → Result) : andThen (.next s) f = f s := rfl

@[simp] theorem andThen_refused (e : Refusal) (f : State → Result) : andThen (.refused e) f = .refused e := rfl

@[simp] theorem andThen_fault (e : Fault) (f : State → Result) : andThen (.fault e) f = .fault e := rfl

/-- A sequence answers a next state only through both of its parts. -/
theorem andThen_eq_next {r : Result} {f : State → Result} {t : State} :
    andThen r f = .next t ↔ ∃ u, r = .next u ∧ f u = .next t := by
  cases r <;> simp [andThen]

/-! ### Device reset and hard trap conflicts -/

@[simp] theorem State.deviceReset_dev (c : ResetCause) (s : State) : (s.deviceReset c).dev = s.dev := rfl
@[simp] theorem State.deviceReset_prog (c : ResetCause) (s : State) : (s.deviceReset c).prog = s.prog := rfl
@[simp] theorem State.deviceReset_symbolic (c : ResetCause) (s : State) : (s.deviceReset c).symbolic = s.symbolic := rfl
@[simp] theorem State.deviceReset_env (c : ResetCause) (s : State) : (s.deviceReset c).env = s.env := rfl
@[simp] theorem State.deviceReset_pc (c : ResetCause) (s : State) : (s.deviceReset c).pc = s.dev.resetAddr := rfl
@[simp] theorem State.deviceReset_w15 (c : ResetCause) (s : State) : (s.deviceReset c).w15 = 0x1000 := rfl
@[simp] theorem State.deviceReset_sr (c : ResetCause) (s : State) : (s.deviceReset c).sr = 0 := rfl
@[simp] theorem State.deviceReset_corcon (c : ResetCause) (s : State) : (s.deviceReset c).corcon = 0x0020 := rfl
@[simp] theorem State.deviceReset_intcon1 (c : ResetCause) (s : State) : (s.deviceReset c).intcon1 = 0 := rfl
@[simp] theorem State.deviceReset_intcon2 (c : ResetCause) (s : State) : (s.deviceReset c).intcon2 = 0x8000 := rfl
@[simp] theorem State.deviceReset_intcon3 (c : ResetCause) (s : State) : (s.deviceReset c).intcon3 = 0 := rfl
@[simp] theorem State.deviceReset_intcon4 (c : ResetCause) (s : State) : (s.deviceReset c).intcon4 = 0 := rfl
@[simp] theorem State.deviceReset_ifs (c : ResetCause) (s : State) : (s.deviceReset c).ifs = Vector.replicate 16 0 := rfl
@[simp] theorem State.deviceReset_iec (c : ResetCause) (s : State) : (s.deviceReset c).iec = Vector.replicate 16 0 := rfl
@[simp] theorem State.deviceReset_ipc (c : ResetCause) (s : State) :
    (s.deviceReset c).ipc = Vector.replicate 62 0x4444 := rfl
@[simp] theorem State.deviceReset_inttreg (c : ResetCause) (s : State) : (s.deviceReset c).inttreg = 0 := rfl
@[simp] theorem State.deviceReset_disicnt (c : ResetCause) (s : State) : (s.deviceReset c).disicnt = 0 := rfl
@[simp] theorem State.deviceReset_ram (c : ResetCause) (s : State) : (s.deviceReset c).ram = [] := rfl
@[simp] theorem State.deviceReset_log (c : ResetCause) (s : State) : (s.deviceReset c).log = {} := rfl
@[simp] theorem State.deviceReset_mode (c : ResetCause) (s : State) : (s.deviceReset c).mode = .run := rfl
@[simp] theorem State.deviceReset_skidBound (c : ResetCause) (s : State) : (s.deviceReset c).skidBound = 0 := rfl
@[simp] theorem State.deviceReset_dsrpag (c : ResetCause) (s : State) : (s.deviceReset c).dsrpag = 1 := rfl
@[simp] theorem State.deviceReset_dswpag (c : ResetCause) (s : State) : (s.deviceReset c).dswpag = 1 := rfl
@[simp] theorem State.deviceReset_skid (c : ResetCause) (s : State) : (s.deviceReset c).skid = 0 := rfl

/-- The end of an instruction leaves every detected condition's flag set, or a hard trap conflict resets the device. -/
theorem State.settle_cases (ipl : Nat) (s : State) :
    s.settle ipl = s.reassert ∨ (s.reassert.hardConflict ipl = true ∧ s.settle ipl = s.deviceReset .trapConflict) := by
  unfold State.settle
  cases h : s.reassert.hardConflict ipl <;> simp

theorem State.reassert_frame (s : State) :
    s.reassert = { s with intcon1 := s.reassert.intcon1, intcon4 := s.reassert.intcon4 } := rfl

/-- The flags of all conditions in the step's log are set. -/
def State.logged (s : State) : Prop :=
  s.intcon1 ||| s.log.intcon1Bits = s.intcon1 ∧ (s.log.gen = true → s.intcon4 ||| 0x0001 = s.intcon4)

/-- Where no write has cleared a flag since its condition was detected, none has to be set again. -/
theorem State.reassert_of_logged {s : State} (h : s.logged) : s.reassert = s := by
  unfold State.reassert
  rw [h.1]
  cases hg : s.log.gen
  · simp
  · rw [if_pos rfl, h.2 hg]

theorem State.settle_of_calm {ipl : Nat} {s : State} (hl : s.logged) (h : s.hardConflict ipl = false) :
    s.settle ipl = s := by
  simp [State.settle, State.reassert_of_logged hl, h]

theorem State.settle_of_conflict {ipl : Nat} {s : State} (hl : s.logged) (h : s.hardConflict ipl = true) :
    s.settle ipl = s.deviceReset .trapConflict := by
  simp [State.settle, State.reassert_of_logged hl, h]

/-- No hard trap condition newly detected, no conflict. -/
theorem State.hardConflict_of_quiet {ipl : Nat} {s : State} (h1 : s.log.osc = false) (h2 : s.log.addr = false)
    (h3 : s.log.gen = false) : s.hardConflict ipl = false := by
  simp [State.hardConflict, h1, h2, h3]

/-- A step that has logged nothing has every flag of its log set. -/
theorem State.logged_of_empty {s : State} (h : s.log = {}) : s.logged := by
  simp [State.logged, StepLog.intcon1Bits, h]

theorem State.logged_fresh (s : State) : s.fresh.logged := State.logged_of_empty rfl

/-- What is neither a flag nor the log is no matter. -/
theorem State.logged_congr {s t : State} (h : s.logged) (h1 : t.intcon1 = s.intcon1) (h4 : t.intcon4 = s.intcon4)
    (hl : t.log = s.log) : t.logged := by
  unfold State.logged; rw [h1, h4, hl]; exact h

/-- More flags do not matter either. -/
theorem State.logged_or {s t : State} (h : s.logged) (m : Word) (h1 : t.intcon1 = s.intcon1 ||| m)
    (h4 : t.intcon4 = s.intcon4) (hl : t.log = s.log) : t.logged := by
  unfold State.logged
  rw [h1, h4, hl]
  refine ⟨?_, h.2⟩
  rw [BitVec.or_assoc, BitVec.or_comm m, ← BitVec.or_assoc, h.1]

/-! ### Hard traps, stack checks, registers -/

/-- One condition more in the log is one bit more. -/
theorem StepLog.intcon1Bits_osc (l : StepLog) : ({ l with osc := true } : StepLog).intcon1Bits = l.intcon1Bits ||| 0x0002 := by
  obtain ⟨o, a, g, k, d⟩ := l
  cases o <;> cases a <;> cases k <;> simp [StepLog.intcon1Bits]

theorem StepLog.intcon1Bits_addr (l : StepLog) :
    ({ l with addr := true } : StepLog).intcon1Bits = l.intcon1Bits ||| 0x0008 := by
  obtain ⟨o, a, g, k, d⟩ := l
  cases o <;> cases a <;> cases k <;> simp [StepLog.intcon1Bits]

theorem StepLog.intcon1Bits_stk (l : StepLog) : ({ l with stk := true } : StepLog).intcon1Bits = l.intcon1Bits ||| 0x0004 := by
  obtain ⟨o, a, g, k, d⟩ := l
  cases o <;> cases a <;> cases k <;> simp [StepLog.intcon1Bits]

/-- A flag and its condition together. -/
theorem or_flag {a b : Word} (h : a ||| b = a) (m : Word) : a ||| m ||| (b ||| m) = a ||| m := by
  rw [BitVec.or_assoc, ← BitVec.or_assoc m, BitVec.or_comm m b, BitVec.or_assoc b, BitVec.or_self, ← BitVec.or_assoc, h]

theorem State.logged_raiseHard {s : State} (h : s.logged) (t : HardTrap) : (s.raiseHard t).logged := by
  obtain ⟨h1, h4⟩ := h
  cases t
  case gen =>
    refine ⟨h1, fun _ => ?_⟩
    simp only [State.raiseHard]
    rw [BitVec.or_assoc]; rfl
  case osc => exact ⟨by simp only [State.raiseHard, StepLog.intcon1Bits_osc, or_flag h1], h4⟩
  case addr => exact ⟨by simp only [State.raiseHard, StepLog.intcon1Bits_addr, or_flag h1], h4⟩

theorem State.logged_stackError {s : State} (h : s.logged) : s.stackError.logged :=
  ⟨by simp only [State.stackError, StepLog.intcon1Bits_stk, or_flag h.1], h.2⟩

theorem State.logged_stackCheck {s : State} (h : s.logged) (ea : Word) (c : Bool) : (s.stackCheck ea c).logged := by
  unfold State.stackCheck
  split
  · exact State.logged_stackError h
  · exact h

theorem State.logged_underflowCheck {s : State} (h : s.logged) : s.underflowCheck.logged := by
  unfold State.underflowCheck
  split
  · exact State.logged_stackError h
  · exact h

theorem State.logged_underflowAfter {s : State} (h : s.logged) (used : Bool) (old : Word) :
    (s.underflowAfter used old).logged := by
  unfold State.underflowAfter
  split
  · exact h
  · exact State.logged_underflowCheck h

theorem State.logged_pointerCheck {s : State} (h : s.logged) (p : WReg) (ea : Word) (c : Bool) :
    (s.pointerCheck p ea c).logged := by
  unfold State.pointerCheck
  split
  · exact State.logged_stackCheck h ea c
  · exact h

theorem State.logged_operandCheck {s : State} (h : s.logged) (op : Operand) : (s.operandCheck op).logged := by
  cases op with
  | direct w => exact h
  | indirect w => exact State.logged_pointerCheck h _ _ _
  | paged w => exact State.logged_pointerCheck h _ _ _

theorem State.logged_dwCheck {s : State} (h : s.logged) (op : DwOperand) : (s.dwCheck op).logged := by
  cases op with
  | pair p => exact h
  | indirect w => exact State.logged_pointerCheck (State.logged_pointerCheck h _ _ _) _ _ _
  | paged w => exact State.logged_pointerCheck (State.logged_pointerCheck h _ _ _) _ _ _

theorem State.logged_pop16 {s : State} (h : s.logged) : s.pop16.logged := by
  have h1 : (({ s with w15 := s.w15 - 2 } : State).stackCheck (s.w15 - 2) false).logged :=
    State.logged_stackCheck (State.logged_congr (t := { s with w15 := s.w15 - 2 }) h rfl rfl rfl) _ _
  simp only [State.pop16]
  split
  · exact State.logged_congr (State.logged_raiseHard h1 .addr) rfl rfl rfl
  · exact h1

theorem State.raiseHard_frame (t : HardTrap) (s : State) :
    s.raiseHard t = { s with
      intcon1 := (s.raiseHard t).intcon1, intcon4 := (s.raiseHard t).intcon4
      osccon := (s.raiseHard t).osccon, log := (s.raiseHard t).log } := by
  cases t <;> rfl

theorem State.stackCheck_frame (ea : Word) (c : Bool) (s : State) :
    s.stackCheck ea c = { s with intcon1 := (s.stackCheck ea c).intcon1, log := (s.stackCheck ea c).log } := by
  unfold State.stackCheck
  split <;> rfl

theorem State.stackCheck_intcon1 (ea : Word) (c : Bool) (s : State) :
    (s.stackCheck ea c).intcon1 =
      if (s.splimWritten && decide (s.splim < ea)) || c then s.intcon1 ||| 0x0004 else s.intcon1 := by
  unfold State.stackCheck
  split <;> rfl

theorem State.underflowCheck_frame (s : State) :
    s.underflowCheck = { s with intcon1 := s.underflowCheck.intcon1, log := s.underflowCheck.log } := by
  unfold State.underflowCheck
  split <;> rfl

theorem State.underflowCheck_intcon1 (s : State) :
    s.underflowCheck.intcon1 = if s.w15 < 0x1000 then s.intcon1 ||| 0x0004 else s.intcon1 := by
  unfold State.underflowCheck
  split <;> rfl

theorem State.underflowAfter_frame (used : Bool) (old : Word) (s : State) :
    s.underflowAfter used old = { s with intcon1 := (s.underflowAfter used old).intcon1, log := (s.underflowAfter used old).log } := by
  unfold State.underflowAfter
  split
  · rfl
  · exact s.underflowCheck_frame

theorem State.underflowAfter_same (s : State) : s.underflowAfter false s.w15 = s := by
  simp [State.underflowAfter]

theorem State.pointerCheck_frame (p : WReg) (ea : Word) (c : Bool) (s : State) :
    s.pointerCheck p ea c = { s with intcon1 := (s.pointerCheck p ea c).intcon1, log := (s.pointerCheck p ea c).log } := by
  unfold State.pointerCheck
  split
  · exact s.stackCheck_frame ea c
  · rfl

theorem State.operandCheck_frame (op : Operand) (s : State) :
    s.operandCheck op = { s with intcon1 := (s.operandCheck op).intcon1, log := (s.operandCheck op).log } := by
  cases op with
  | direct w => rfl
  | indirect w => exact s.pointerCheck_frame _ _ _
  | paged w => exact s.pointerCheck_frame _ _ _

theorem State.dwCheck_frame (op : DwOperand) (s : State) :
    s.dwCheck op = { s with intcon1 := (s.dwCheck op).intcon1, log := (s.dwCheck op).log } := by
  cases op with
  | pair p => rfl
  | indirect w =>
    simp only [State.dwCheck]
    rw [State.pointerCheck_frame, State.pointerCheck_frame w (s.readW w) false s]
  | paged w =>
    simp only [State.dwCheck]
    rw [State.pointerCheck_frame, State.pointerCheck_frame w (s.readW w) false s]

theorem State.writeW_frame (i : WReg) (v : Word) (s : State) :
    s.writeW i v = { s with
      w := (s.writeW i v).w, alt1 := (s.writeW i v).alt1, alt2 := (s.writeW i v).alt2, w15 := (s.writeW i v).w15 } := by
  unfold State.writeW
  split
  · split <;> rfl
  · rfl

/-- A register reads as written, and the others stay (R11). -/
theorem State.readW_writeW (s : State) (i j : WReg) (v : Word) :
    (s.writeW i v).readW j = if j = i then v else s.readW j := by
  by_cases hi : i.val < 15
  · by_cases hj : j.val < 15
    · have key : ∀ (vec : Vector Word 15), (vec.set i.val v hi)[j.val] = if j = i then v else vec[j.val] := by
        intro vec
        rw [Vector.getElem_set]
        by_cases h : j = i
        · subst h; simp
        · have : ¬ i.val = j.val := fun e => h (Fin.ext e.symm)
          simp [h, this]
      unfold State.writeW State.readW State.bankOf
      simp only [hi, hj, dif_pos]
      by_cases h : j = i
      · subst h
        cases hb : (s.dev.hasAltW && s.dev.altRegs.getLsbD j.val) <;> cases s.activeCtx <;> simp [hb]
      · have hne : ¬ i.val = j.val := fun e => h (Fin.ext e.symm)
        cases hb : (s.dev.hasAltW && s.dev.altRegs.getLsbD i.val) <;>
          cases hb' : (s.dev.hasAltW && s.dev.altRegs.getLsbD j.val) <;>
          cases s.activeCtx <;> simp [hb', h, key]
    · have hne : ¬ j = i := fun h => hj (by rw [h]; exact hi)
      have e : (s.writeW i v).readW j = (s.writeW i v).w15 := by simp [State.readW, hj]
      rw [e, if_neg hne]
      have : (s.writeW i v).w15 = s.w15 := by
        unfold State.writeW
        simp only [hi, dif_pos]
        split <;> rfl
      simp [this, State.readW, hj]
  · have ei : s.writeW i v = { s with w15 := v } := by simp [State.writeW, hi]
    rw [ei]
    by_cases hj : j.val < 15
    · have hne : ¬ j = i := fun h => hi (by rw [← h]; exact hj)
      simp only [hne, if_false, State.readW, hj, dif_pos, State.bankOf]
    · have e : j = i := Fin.ext (by omega)
      subst e
      simp only [State.readW, hj, dif_neg, not_false_eq_true, if_true]

theorem State.freeRegs_frame (is : List WReg) (s : State) :
    s.freeRegs is = { s with
      w := (s.freeRegs is).w, alt1 := (s.freeRegs is).alt1, alt2 := (s.freeRegs is).alt2
      w15 := (s.freeRegs is).w15, free := (s.freeRegs is).free } := by
  induction is generalizing s with
  | nil => rfl
  | cons i is ih =>
    simp only [State.freeRegs]
    rw [ih, State.writeW_frame]
    rfl

/-- Registers outside the list keep their values. -/
theorem State.readW_freeRegs (is : List WReg) (s : State) (j : WReg) (h : j ∉ is) :
    (s.freeRegs is).readW j = s.readW j := by
  induction is generalizing s with
  | nil => rfl
  | cons i is ih =>
    simp only [List.mem_cons, not_or] at h
    simp only [State.freeRegs]
    rw [ih _ h.2]
    have : ((s.writeW i (Config.freeWord s.free)).draw).readW j = (s.writeW i (Config.freeWord s.free)).readW j := rfl
    rw [this, State.readW_writeW, if_neg h.1]

theorem State.setIfs_frame (n : Nat) (s : State) : s.setIfs n = { s with ifs := (s.setIfs n).ifs } := by
  unfold State.setIfs
  split <;> rfl

/-- A request flag set: that flag, and no other, where the device has the source (R103). -/
theorem State.ifsBit_setIfs (s : State) (n m : Nat) :
    (s.setIfs n).ifsBit m = ((decide (m = n) && s.implemented n) || s.ifsBit m) := by
  unfold State.setIfs State.ifsBit
  cases h : s.implemented n
  · simp
  · have hn : n < 246 := BitVec.lt_of_getLsbD h
    have : n / 16 < 16 := by omega
    simp [bankBit_bankSet, this]

theorem State.setAcc_frame (acc : AccSel) (v : Acc) (s : State) :
    s.setAcc acc v = { s with accA := (s.setAcc acc v).accA, accB := (s.setAcc acc v).accB } := by
  cases acc <;> rfl

theorem State.polarityFlags_frame (c d : Word) (ns : List Nat) (k : Nat) (s : State) :
    s.polarityFlags c d ns k = { s with ifs := (s.polarityFlags c d ns k).ifs } := by
  induction ns generalizing s k with
  | nil => rfl
  | cons n ns ih =>
    simp only [State.polarityFlags]
    rw [ih]
    split
    · rw [State.setIfs_frame]
    · rfl

/-! ### Special function registers and memory -/

theorem State.writeIntcon2_frame (mask value : Word) (s : State) :
    s.writeIntcon2 mask value = { s with
      intcon1 := (s.writeIntcon2 mask value).intcon1
      intcon2 := (s.writeIntcon2 mask value).intcon2, intcon4 := (s.writeIntcon2 mask value).intcon4
      osccon := (s.writeIntcon2 mask value).osccon
      ifs := (s.writeIntcon2 mask value).ifs, gieLag := (s.writeIntcon2 mask value).gieLag
      free := (s.writeIntcon2 mask value).free, log := (s.writeIntcon2 mask value).log } := by
  simp only [State.writeIntcon2]
  split
  · split <;> rfl
  · rw [State.polarityFlags_frame]
    split <;> rfl

/-- A software write of a special function register that answers a next state changes special function registers, the hidden
variables bound to them, the draw count and the log, and nothing else (R98). -/
theorem State.writeSfr_frame {r : Sfr} {mask value : Word} {s t : State} (h : s.writeSfr r mask value = .next t) :
    t = { s with
      sr := t.sr, corcon := t.corcon, intcon1 := t.intcon1, intcon2 := t.intcon2, intcon3 := t.intcon3
      intcon4 := t.intcon4, ifs := t.ifs, iec := t.iec, ipc := t.ipc, disicnt := t.disicnt, splim := t.splim
      splimWritten := t.splimWritten, rcon := t.rcon, osccon := t.osccon, dsrpag := t.dsrpag, dswpag := t.dswpag
      gieLag := t.gieLag, free := t.free, log := t.log } := by
  cases r <;> simp only [State.writeSfr] at h
  case intcon2 =>
    split at h
    · exact absurd h (by simp)
    · cases h
      rw [State.writeIntcon2_frame]
  case disicnt =>
    cases h
    simp only [State.writeDisicnt]
    split
    · rfl
    · split <;> rfl
  all_goals (cases h; rfl)

/-- A read after a write of a byte of data memory. -/
theorem State.ramByte_setRamByte (s : State) (a b : Word) (v : Byte) :
    (s.setRamByte a v).ramByte b = if b = a then v else s.ramByte b := by
  unfold State.ramByte State.setRamByte
  simp only [Memory.get_set_ram]
  by_cases h : b = a
  · subst h; simp
  · have : ¬ b.toNat = a.toNat := fun e => h (BitVec.eq_of_toNat_eq e)
    simp [h, this]

/-- A word of data memory reads as written. -/
theorem State.ramWord_setRamWord (s : State) (a : Word) (v : Word) : (s.setRamWord a v).ramWord a = v := by
  have hne : ¬ a = a + 1 := by intro h; bv_omega
  unfold State.ramWord State.setRamWord
  simp only [State.ramByte_setRamByte, hne, if_false, if_true, high_low_bytes]

/-- A write of a word leaves every byte but its two. -/
theorem State.ramByte_setRamWord_off (s : State) (a b : Word) (v : Word) (h : offWord a b) :
    (s.setRamWord a v).ramByte b = s.ramByte b := by
  unfold State.setRamWord
  simp only [State.ramByte_setRamByte, h.1, h.2, if_false]

/-- A store of a word is a software write of a special function register or a write of data memory. -/
theorem State.storeWord_cases (a v : Word) (s : State) :
    (∃ r, s.dev.sfrAt a = some r ∧ s.storeWord a v = s.writeSfr r 0xFFFF v) ∨
    (s.dev.sfrAt a = none ∧ s.storeWord a v = .next (s.setRamWord a v)) := by
  unfold State.storeWord
  cases h : s.dev.sfrAt a <;> simp

theorem State.storeByte_cases (a : Word) (v : Byte) (s : State) :
    (∃ r mask value, s.dev.sfrAt a = some r ∧ s.storeByte a v = s.writeSfr r mask value) ∨
    (s.dev.sfrAt a = none ∧ s.storeByte a v = .next (s.setRamByte a v)) := by
  unfold State.storeByte
  cases h : s.dev.sfrAt a with
  | none => simp
  | some r =>
    left
    by_cases hb : a.getLsbD 0 = true
    · exact ⟨r, _, _, rfl, by simp only [hb, if_true]; rfl⟩
    · exact ⟨r, _, _, rfl, by simp only [hb]; rfl⟩

/-- What any store leaves: everything but special function registers and what hangs on them, data memory, the draw count and
the log. -/
def storeFrame (s t : State) : Prop :=
  t = { s with
    sr := t.sr, corcon := t.corcon, intcon1 := t.intcon1, intcon2 := t.intcon2, intcon3 := t.intcon3
    intcon4 := t.intcon4, ifs := t.ifs, iec := t.iec, ipc := t.ipc, disicnt := t.disicnt, splim := t.splim
    splimWritten := t.splimWritten, rcon := t.rcon, osccon := t.osccon, dsrpag := t.dsrpag, dswpag := t.dswpag
    gieLag := t.gieLag, free := t.free, log := t.log, ram := t.ram }

theorem State.writeSfr_storeFrame {r : Sfr} {mask value : Word} {s t : State} (h : s.writeSfr r mask value = .next t) :
    storeFrame s t := by
  unfold storeFrame
  have e := State.writeSfr_frame h
  have er : t.ram = s.ram := by rw [e]
  rw [er]; exact e

theorem State.storeWord_frame {a v : Word} {s t : State} (h : s.storeWord a v = .next t) : storeFrame s t := by
  rcases s.storeWord_cases a v with ⟨r, _, e⟩ | ⟨_, e⟩
  · exact State.writeSfr_storeFrame (e ▸ h)
  · rw [e] at h; cases h; rfl

theorem State.storeByte_frame {a : Word} {v : Byte} {s t : State} (h : s.storeByte a v = .next t) : storeFrame s t := by
  rcases s.storeByte_cases a v with ⟨r, m, x, _, e⟩ | ⟨_, e⟩
  · exact State.writeSfr_storeFrame (e ▸ h)
  · rw [e] at h; cases h; rfl

theorem State.storeBit_frame {a : Word} {i : Fin 16} {b : Bool} {s t : State} (h : s.storeBit a i b = .next t) :
    storeFrame s t := by
  unfold State.storeBit at h
  split at h
  · exact State.writeSfr_storeFrame h
  · cases h; rfl

/-! ### The stack -/

/-- The overflow and wrap check, as a mask and in the log (R133, R147). -/
theorem State.stackCheck_eq (ea : Word) (c : Bool) (s : State) :
    s.stackCheck ea c = { s with
      intcon1 := s.intcon1 ||| (if (s.splimWritten && decide (s.splim < ea)) || c then 0x0004 else 0)
      log := { s.log with stk := s.log.stk || ((s.splimWritten && decide (s.splim < ea)) || c) } } := by
  unfold State.stackCheck State.stackError
  cases (s.splimWritten && decide (s.splim < ea)) || c <;> simp

/-- STKERR by the overflow check, as a mask (R133). -/
theorem State.stackCheck_or (ea : Word) (c : Bool) (s : State) :
    (s.stackCheck ea c).intcon1 =
      s.intcon1 ||| (if (s.splimWritten && decide (s.splim < ea)) || c then 0x0004 else 0) := by
  rw [State.stackCheck_eq]

/-- The underflow check, as a mask and in the log (R133, R147). -/
theorem State.underflowCheck_eq (s : State) :
    s.underflowCheck = { s with
      intcon1 := s.intcon1 ||| (if s.w15 < 0x1000 then 0x0004 else 0)
      log := { s.log with stk := s.log.stk || decide (s.w15 < 0x1000) } } := by
  unfold State.underflowCheck State.stackError
  split
  · rename_i h
    rw [decide_eq_true h, Bool.or_true]
  · rename_i h
    rw [decide_eq_false h]
    simp

/-- STKERR by the underflow check, as a mask (R133). -/
theorem State.underflowCheck_or (s : State) :
    s.underflowCheck.intcon1 = s.intcon1 ||| (if s.w15 < 0x1000 then 0x0004 else 0) := by
  rw [State.underflowCheck_eq]

/-- Whether an access is bad is the device's to say. -/
theorem State.badAccess_congr {s t : State} (h : t.dev = s.dev) (size : Size) (a : Word) :
    t.badAccess size a = s.badAccess size a := by
  cases size <;> simp [State.badAccess, h]

theorem State.ramWordAt_congr {s t : State} (h : t.dev = s.dev) (a : Word) : t.ramWordAt a ↔ s.ramWordAt a := by
  simp [State.ramWordAt, State.badAccess_congr h, h]

/-- A push onto data memory: the word is written at W15, no other byte changes, W15 goes up by 2, and the overflow check is on
the old W15 (R60, R133). -/
theorem State.push16_of_ram {s : State} (v : Word) (h : s.ramWordAt s.w15) :
    ∃ t : State, s.push16 v = .next t
      ∧ t = { s with
          w15 := s.w15 + 2, ram := t.ram
          intcon1 := s.intcon1 ||| (if s.splimWritten && decide (s.splim < s.w15) then 0x0004 else 0)
          log := { s.log with stk := s.log.stk || (s.splimWritten && decide (s.splim < s.w15)) } }
      ∧ t.ramWord s.w15 = v ∧ ∀ b, offWord s.w15 b → t.ramByte b = s.ramByte b := by
  unfold State.push16 State.pushStore
  have e := State.stackCheck_eq s.w15 false s
  rw [Bool.or_false] at e
  generalize s.stackCheck s.w15 false = x at e ⊢
  have hd : x.dev = s.dev := by rw [e]
  have hw : x.w15 = s.w15 := by rw [e]
  have hb : x.badAccess .word s.w15 = false := by rw [State.badAccess_congr hd]; exact h.1
  have hs : x.dev.sfrAt s.w15 = none := by rw [hd]; exact h.2
  simp only [State.storeWord, hw, hb, hs, Bool.false_eq_true, if_false, andThen_next]
  refine ⟨_, rfl, ?_, ?_, ?_⟩
  · rw [e]
    rfl
  · exact x.ramWord_setRamWord s.w15 v
  · intro b hb
    have := x.ramByte_setRamWord_off s.w15 b v hb
    rw [show State.ramByte x b = s.ramByte b by rw [e]; rfl] at this
    exact this

/-- A frame pushed onto data memory: its two words, W15 up by 4, no other byte changed, and the overflow checks of both pushes
(R60, R61, R133). -/
theorem State.push_frame {s : State} (w0 w1 : Word) (h : s.framePushable) :
    ∃ t1 t2 : State, s.push16 w0 = .next t1 ∧ t1.push16 w1 = .next t2
      ∧ t2 = { s with
          w15 := s.w15 + 4, ram := t2.ram
          intcon1 := s.intcon1 ||| (if s.splimWritten && decide (s.splim < s.w15) then 0x0004 else 0)
            ||| (if s.splimWritten && decide (s.splim < s.w15 + 2) then 0x0004 else 0)
          log := { s.log with
            stk := s.log.stk || (s.splimWritten && decide (s.splim < s.w15))
              || (s.splimWritten && decide (s.splim < s.w15 + 2)) } }
      ∧ t2.ramWord s.w15 = w0 ∧ t2.ramWord (s.w15 + 2) = w1
      ∧ ∀ b, offWord s.w15 b → offWord (s.w15 + 2) b → t2.ramByte b = s.ramByte b := by
  obtain ⟨t1, p1, e1, r1, o1⟩ := State.push16_of_ram w0 h.1
  have hw : t1.w15 = s.w15 + 2 := by rw [e1]
  have hd : t1.dev = s.dev := by rw [e1]
  have h2 : t1.ramWordAt t1.w15 := by rw [hw]; exact (State.ramWordAt_congr hd _).2 h.2
  obtain ⟨t2, p2, e2, r2, o2⟩ := State.push16_of_ram w1 h2
  rw [hw] at r2 o2
  have h0 : s.w15.getLsbD 0 = false := by
    have := h.1.1
    simp only [State.badAccess, Bool.or_eq_false_iff] at this
    exact this.1.1
  refine ⟨t1, t2, p1, p2, ?_, ?_, r2, fun b hb hb' => (o2 b hb').trans (o1 b hb)⟩
  · have hs : s.w15 + 2 + 2 = s.w15 + 4 := by bv_omega
    generalize t2.ram = m at e2
    generalize t1.ram = m1 at e1
    rw [e2, hw, e1]
    simp only [hs]
  · rw [← r1]
    have a : t2.ramByte s.w15 = t1.ramByte s.w15 := o2 _ ⟨by bv_omega, by bv_omega⟩
    have c : t2.ramByte (s.w15 + 1) = t1.ramByte (s.w15 + 1) := o2 _ ⟨by bv_omega, by bv_omega⟩
    simp only [State.ramWord, a, c]

/-- Two words pushed onto data memory by one instruction are pushed one after the other. -/
theorem State.pushPair_of_ram {s : State} (lo hi : Word) (h : s.framePushable) :
    s.pushPair lo hi = andThen (s.push16 lo) fun t => t.push16 hi := by
  simp only [State.pushPair, h.1.1, h.2.1, Bool.or_self, Bool.false_eq_true, if_false]

/-- Two words pushed where one of them cannot be written: ADDRERR, the overflow checks and W15 up by 4, and no byte written
(R59, R114). -/
theorem State.pushPair_of_bad {s : State} (lo hi : Word)
    (h : s.badAccess .word s.w15 = true ∨ s.badAccess .word (s.w15 + 2) = true) :
    s.pushPair lo hi = .next { s with
      w15 := s.w15 + 4
      intcon1 := s.intcon1 ||| (if s.splimWritten && decide (s.splim < s.w15) then 0x0004 else 0)
        ||| (if s.splimWritten && decide (s.splim < s.w15 + 2) then 0x0004 else 0) ||| 0x0008
      log := { s.log with
        addr := true
        stk := s.log.stk || (s.splimWritten && decide (s.splim < s.w15))
          || (s.splimWritten && decide (s.splim < s.w15 + 2)) } } := by
  rw [State.pushPair, if_pos (by simpa using h), State.stackCheck_eq (s.w15 + 2), State.stackCheck_eq s.w15]
  simp only [Bool.or_false]
  rfl

/-- What a push leaves, whatever it writes to. -/
theorem State.push16_frame {s t : State} {v : Word} (h : s.push16 v = .next t) :
    storeFrame { s with w15 := s.w15 + 2 } t := by
  unfold State.push16 at h
  obtain ⟨u, hu, ht⟩ := andThen_eq_next.1 h
  cases ht
  unfold State.pushStore at hu
  have e := State.stackCheck_frame s.w15 false s
  split at hu
  · cases hu
    unfold storeFrame
    rw [State.raiseHard_frame, e]
  · have f := State.storeWord_frame hu
    unfold storeFrame at f ⊢
    rw [f, e]

/-- A pop from where a word can be read: W15 goes down by 2, with the overflow check on the new W15 (R60). -/
theorem State.pop16_good {s : State} (h : s.badAccess .word (s.w15 - 2) = false) :
    s.pop16 = { s with w15 := s.w15 - 2 }.stackCheck (s.w15 - 2) false ∧ s.popValue = s.loadWord (s.w15 - 2) := by
  simp only [State.pop16, State.popValue, h, Bool.false_eq_true, if_false, and_self]

/-- A pop from data memory: the word at W15 - 2, W15 down by 2, and the overflow check on the new W15 (R60, R133). -/
theorem State.pop16_of_ram {s : State} (h : s.ramWordAt (s.w15 - 2)) :
    s.pop16 = { s with
        w15 := s.w15 - 2
        intcon1 := s.intcon1 ||| (if s.splimWritten && decide (s.splim < s.w15 - 2) then 0x0004 else 0)
        log := { s.log with stk := s.log.stk || (s.splimWritten && decide (s.splim < s.w15 - 2)) } }
      ∧ s.popValue = s.ramWord (s.w15 - 2) := by
  obtain ⟨e, ev⟩ := State.pop16_good h.1
  constructor
  · rw [e, State.stackCheck_eq, Bool.or_false]
  · rw [ev]
    simp only [State.loadWord, h.2]

theorem State.pop16_frame (s : State) :
    s.pop16 = { s with
      w15 := s.w15 - 2, intcon1 := s.pop16.intcon1, intcon4 := s.pop16.intcon4, osccon := s.pop16.osccon
      log := s.pop16.log, free := s.pop16.free } := by
  simp only [State.pop16]
  have e := State.stackCheck_frame (s.w15 - 2) false { s with w15 := s.w15 - 2 }
  generalize State.stackCheck (s.w15 - 2) false { s with w15 := s.w15 - 2 } = x at e ⊢
  have f := State.raiseHard_frame .addr x
  generalize State.raiseHard .addr x = y at f ⊢
  split
  · rw [f, e]
    rfl
  · rw [e]

theorem State.restoreCtx_frame (s : State) :
    s.restoreCtx = { s with activeCtx := s.restoreCtx.activeCtx, ctxStack := s.restoreCtx.ctxStack } := by
  unfold State.restoreCtx
  split
  · split <;> rfl
  · rfl

/-- What the return from an exception leaves before its conflict check: everything but the registers it restores, W15, the trap
flags its pops set, the draw count and the log (R81). -/
theorem State.exceptionReturn_frame (s : State) (w0 w1 : Word) :
    ∃ x : State, ((s.fresh.pop16.pop16.unstack w0 w1).restoreCtx).underflowCheck = x ∧ x = { s with
        pc := framePc w0 w1, sr := mergeBits s.sr (w1 >>> 8) 0x00FF
        corcon := setBit (setBit s.corcon 3 (w1.getLsbD 7)) 2 (w0.getLsbD 0)
        w15 := s.w15 - 2 - 2, intcon1 := x.intcon1, intcon4 := x.intcon4
        osccon := x.osccon, activeCtx := x.activeCtx, ctxStack := x.ctxStack, free := x.free, log := x.log } := by
  refine ⟨_, rfl, ?_⟩
  have e1 := State.pop16_frame s.fresh
  generalize s.fresh.pop16 = t1 at e1 ⊢
  have e2 := State.pop16_frame t1
  generalize t1.pop16 = t2 at e2 ⊢
  have e3 := State.restoreCtx_frame (t2.unstack w0 w1)
  generalize (t2.unstack w0 w1).restoreCtx = t3 at e3 ⊢
  have e4 := State.underflowCheck_frame t3
  generalize t3.underflowCheck = t4 at e4 ⊢
  rw [e4, e3, State.unstack, e2, e1]
  rfl

/-- The return from an exception: a device reset by conflict, or a state that differs in the registers it restores, W15, the
trap flags its pops set, the draw count and the log (R81). -/
theorem State.exceptionReturn_cases (s : State) :
    (∃ u, s.exceptionReturn = u.deviceReset .trapConflict ∧ s.sameProgram u) ∨
    s.exceptionReturn = { s with
      pc := s.exceptionReturn.pc, sr := s.exceptionReturn.sr, corcon := s.exceptionReturn.corcon, w15 := s.w15 - 2 - 2
      intcon1 := s.exceptionReturn.intcon1, intcon4 := s.exceptionReturn.intcon4, osccon := s.exceptionReturn.osccon
      activeCtx := s.exceptionReturn.activeCtx, ctxStack := s.exceptionReturn.ctxStack
      free := s.exceptionReturn.free, log := s.exceptionReturn.log } := by
  obtain ⟨x, hx, e⟩ := State.exceptionReturn_frame s s.fresh.pop16.popValue s.fresh.popValue
  have h0 : s.exceptionReturn = x.settle s.fresh.cpuIpl := by
    rw [← hx]; rfl
  rw [h0]
  rcases State.settle_cases s.fresh.cpuIpl x with h | ⟨_, h⟩
  · right
    rw [h, State.reassert_frame]
    generalize x.reassert.intcon1 = a1, x.reassert.intcon4 = a2
    generalize x.intcon1 = b1, x.intcon4 = b2, x.osccon = a3, x.activeCtx = a4, x.ctxStack = a5, x.free = a6,
      x.log = a7 at e
    rw [e]
  · left
    refine ⟨x, h, ?_, ?_, ?_⟩ <;> rw [e]

theorem State.latch_frame (e : Exc) (level : Nat) (s : State) :
    s.latch e level = { s with inttreg := (s.latch e level).inttreg, free := (s.latch e level).free } := by
  cases e <;> rfl

theorem State.enterPriority_frame (e : Exc) (level : Nat) (s : State) :
    s.enterPriority e level = { s with
      sr := (s.enterPriority e level).sr, corcon := (s.enterPriority e level).corcon } := by
  cases e <;> rfl

theorem State.selectCtx_frame (e : Exc) (level : Nat) (s : State) :
    s.selectCtx e level = { s with
      activeCtx := (s.selectCtx e level).activeCtx, ctxStack := (s.selectCtx e level).ctxStack } := by
  unfold State.selectCtx
  split <;> rfl

theorem State.enterAfterPush_frame (e : Exc) (level : Nat) (target : PAddr) (s : State) :
    s.enterAfterPush e level target = { s with
      pc := target, skid := 0, mode := .run, sr := (s.enterAfterPush e level target).sr
      corcon := (s.enterAfterPush e level target).corcon, inttreg := (s.enterAfterPush e level target).inttreg
      intcon1 := (s.enterAfterPush e level target).intcon1, activeCtx := (s.enterAfterPush e level target).activeCtx
      ctxStack := (s.enterAfterPush e level target).ctxStack, free := (s.enterAfterPush e level target).free
      log := (s.enterAfterPush e level target).log } := by
  simp only [State.enterAfterPush]
  have e1 := State.enterPriority_frame e level { s with corcon := setBit s.corcon 2 false }
  generalize State.enterPriority e level { s with corcon := setBit s.corcon 2 false } = t1 at e1 ⊢
  have e2 := State.latch_frame e level t1
  generalize t1.latch e level = t2 at e2 ⊢
  have e3 := State.selectCtx_frame e level t2
  generalize t2.selectCtx e level = t3 at e3 ⊢
  have e4 := State.underflowCheck_frame t3
  generalize t3.underflowCheck = t4 at e4 ⊢
  rw [e4, e3, e2, e1]

/-- Taking an exception that answers a next state: the target is the vector's, the two frame words were pushed, and the rest of
the entry was done, or a conflict detected in the pushes reset the device (R115, R127). -/
theorem State.takeException_cases {e : Exc} {s t : State} (h : s.takeException e = .next t) :
    ∃ target t1 t2, s.fresh.handler e = .ok target ∧ s.fresh.push16 s.frame0 = .next t1
      ∧ t1.push16 s.frame1 = .next t2
      ∧ t = (t2.enterAfterPush e (e.level s) target).settle s.cpuIpl := by
  unfold State.takeException at h
  simp only at h
  split at h
  · exact absurd h (by simp)
  · rename_i target ht
    obtain ⟨t1, h1, h'⟩ := andThen_eq_next.1 h
    obtain ⟨t2, h2, h''⟩ := andThen_eq_next.1 h'
    cases h''
    exact ⟨target, t1, t2, ht, h1, h2, rfl⟩

end Sys2Proof.Machine
end

