-- ==== Sys2Proof/Laws/Fields.lean ====
section
/-! SUPPORT. The frames of the shared operations field by field: each field that an operation leaves, for simp. -/

namespace Sys2Proof.Machine

open Sys2Proof

theorem State.overflow_frame (acc : AccSel) (s : State) :
    s.overflow acc = { s with sr := (s.overflow acc).sr, intcon1 := (s.overflow acc).intcon1 } := by
  cases acc <;> rfl

theorem State.catastrophic_frame (acc : AccSel) (s : State) :
    s.catastrophic acc = { s with intcon1 := (s.catastrophic acc).intcon1 } := by
  unfold State.catastrophic
  split <;> rfl

/-- The MAC class's result changes SR, INTCON1, an accumulator and the draw count (R92). -/
theorem State.macResult_frame (acc : AccSel) (s : State) :
    s.macResult acc = { s with
      sr := (s.macResult acc).sr, intcon1 := (s.macResult acc).intcon1, accA := (s.macResult acc).accA
      accB := (s.macResult acc).accB, free := (s.macResult acc).free } := by
  simp only [State.macResult]
  have e1 := State.setAcc_frame acc (Config.freeAcc s.free) s
  generalize State.setAcc s acc (Config.freeAcc s.free) = t1 at e1 ⊢
  have o (c : Bool) (x : State) : (if c = true then x.overflow acc else x) = { x with
      sr := (if c = true then x.overflow acc else x).sr, intcon1 := (if c = true then x.overflow acc else x).intcon1 } := by
    cases c
    · rfl
    · exact State.overflow_frame acc x
  have k (c : Bool) (x : State) : (if c = true then x.catastrophic acc else x) = { x with
      intcon1 := (if c = true then x.catastrophic acc else x).intcon1 } := by
    cases c
    · rfl
    · exact State.catastrophic_frame acc x
  have e2 := o ((s.saturation acc != .bits31) && Config.freeBool t1.draw.execFlags.free) t1.draw.execFlags
  generalize (if ((s.saturation acc != .bits31) && Config.freeBool t1.draw.execFlags.free) = true
    then t1.draw.execFlags.overflow acc else t1.draw.execFlags) = t2 at e2 ⊢
  have e3 := k ((s.saturation acc == .none) && Config.freeBool (t1.draw.execFlags.free + 1)) t2
  generalize (if ((s.saturation acc == .none) && Config.freeBool (t1.draw.execFlags.free + 1)) = true
    then t2.catastrophic acc else t2) = t3 at e3 ⊢
  rw [e3, e2, e1]
  rfl

/-! ### raiseHard -/

@[simp] theorem State.raiseHard_pc (t : HardTrap) (s : State) : (s.raiseHard t).pc = s.pc := by rw [State.raiseHard_frame]
@[simp] theorem State.raiseHard_w (t : HardTrap) (s : State) : (s.raiseHard t).w = s.w := by rw [State.raiseHard_frame]
@[simp] theorem State.raiseHard_alt1 (t : HardTrap) (s : State) : (s.raiseHard t).alt1 = s.alt1 := by rw [State.raiseHard_frame]
@[simp] theorem State.raiseHard_alt2 (t : HardTrap) (s : State) : (s.raiseHard t).alt2 = s.alt2 := by rw [State.raiseHard_frame]
@[simp] theorem State.raiseHard_w15 (t : HardTrap) (s : State) : (s.raiseHard t).w15 = s.w15 := by rw [State.raiseHard_frame]
@[simp] theorem State.raiseHard_sr (t : HardTrap) (s : State) : (s.raiseHard t).sr = s.sr := by rw [State.raiseHard_frame]
@[simp] theorem State.raiseHard_corcon (t : HardTrap) (s : State) : (s.raiseHard t).corcon = s.corcon := by rw [State.raiseHard_frame]
@[simp] theorem State.raiseHard_intcon2 (t : HardTrap) (s : State) : (s.raiseHard t).intcon2 = s.intcon2 := by rw [State.raiseHard_frame]
@[simp] theorem State.raiseHard_intcon3 (t : HardTrap) (s : State) : (s.raiseHard t).intcon3 = s.intcon3 := by rw [State.raiseHard_frame]
@[simp] theorem State.raiseHard_ifs (t : HardTrap) (s : State) : (s.raiseHard t).ifs = s.ifs := by rw [State.raiseHard_frame]
@[simp] theorem State.raiseHard_iec (t : HardTrap) (s : State) : (s.raiseHard t).iec = s.iec := by rw [State.raiseHard_frame]
@[simp] theorem State.raiseHard_ipc (t : HardTrap) (s : State) : (s.raiseHard t).ipc = s.ipc := by rw [State.raiseHard_frame]
@[simp] theorem State.raiseHard_inttreg (t : HardTrap) (s : State) : (s.raiseHard t).inttreg = s.inttreg := by rw [State.raiseHard_frame]
@[simp] theorem State.raiseHard_disicnt (t : HardTrap) (s : State) : (s.raiseHard t).disicnt = s.disicnt := by rw [State.raiseHard_frame]
@[simp] theorem State.raiseHard_splim (t : HardTrap) (s : State) : (s.raiseHard t).splim = s.splim := by rw [State.raiseHard_frame]
@[simp] theorem State.raiseHard_rcon (t : HardTrap) (s : State) : (s.raiseHard t).rcon = s.rcon := by rw [State.raiseHard_frame]
@[simp] theorem State.raiseHard_dsrpag (t : HardTrap) (s : State) : (s.raiseHard t).dsrpag = s.dsrpag := by rw [State.raiseHard_frame]
@[simp] theorem State.raiseHard_dswpag (t : HardTrap) (s : State) : (s.raiseHard t).dswpag = s.dswpag := by rw [State.raiseHard_frame]
@[simp] theorem State.raiseHard_accA (t : HardTrap) (s : State) : (s.raiseHard t).accA = s.accA := by rw [State.raiseHard_frame]
@[simp] theorem State.raiseHard_accB (t : HardTrap) (s : State) : (s.raiseHard t).accB = s.accB := by rw [State.raiseHard_frame]
@[simp] theorem State.raiseHard_doStack (t : HardTrap) (s : State) : (s.raiseHard t).doStack = s.doStack := by rw [State.raiseHard_frame]
@[simp] theorem State.raiseHard_ram (t : HardTrap) (s : State) : (s.raiseHard t).ram = s.ram := by rw [State.raiseHard_frame]
@[simp] theorem State.raiseHard_prog (t : HardTrap) (s : State) : (s.raiseHard t).prog = s.prog := by rw [State.raiseHard_frame]
@[simp] theorem State.raiseHard_dev (t : HardTrap) (s : State) : (s.raiseHard t).dev = s.dev := by rw [State.raiseHard_frame]
@[simp] theorem State.raiseHard_splimWritten (t : HardTrap) (s : State) : (s.raiseHard t).splimWritten = s.splimWritten := by rw [State.raiseHard_frame]
@[simp] theorem State.raiseHard_activeCtx (t : HardTrap) (s : State) : (s.raiseHard t).activeCtx = s.activeCtx := by rw [State.raiseHard_frame]
@[simp] theorem State.raiseHard_ctxStack (t : HardTrap) (s : State) : (s.raiseHard t).ctxStack = s.ctxStack := by rw [State.raiseHard_frame]
@[simp] theorem State.raiseHard_gieLag (t : HardTrap) (s : State) : (s.raiseHard t).gieLag = s.gieLag := by rw [State.raiseHard_frame]
@[simp] theorem State.raiseHard_skid (t : HardTrap) (s : State) : (s.raiseHard t).skid = s.skid := by rw [State.raiseHard_frame]
@[simp] theorem State.raiseHard_skidBound (t : HardTrap) (s : State) : (s.raiseHard t).skidBound = s.skidBound := by rw [State.raiseHard_frame]
@[simp] theorem State.raiseHard_mode (t : HardTrap) (s : State) : (s.raiseHard t).mode = s.mode := by rw [State.raiseHard_frame]
@[simp] theorem State.raiseHard_pins (t : HardTrap) (s : State) : (s.raiseHard t).pins = s.pins := by rw [State.raiseHard_frame]
@[simp] theorem State.raiseHard_symbolic (t : HardTrap) (s : State) : (s.raiseHard t).symbolic = s.symbolic := by rw [State.raiseHard_frame]
@[simp] theorem State.raiseHard_env (t : HardTrap) (s : State) : (s.raiseHard t).env = s.env := by rw [State.raiseHard_frame]
@[simp] theorem State.raiseHard_ramSeed (t : HardTrap) (s : State) : (s.raiseHard t).ramSeed = s.ramSeed := by rw [State.raiseHard_frame]
@[simp] theorem State.raiseHard_free (t : HardTrap) (s : State) : (s.raiseHard t).free = s.free := by rw [State.raiseHard_frame]

/-! ### stackCheck -/

@[simp] theorem State.stackCheck_pc (ea : Word) (c : Bool) (s : State) : (s.stackCheck ea c).pc = s.pc := by rw [State.stackCheck_frame]
@[simp] theorem State.stackCheck_w (ea : Word) (c : Bool) (s : State) : (s.stackCheck ea c).w = s.w := by rw [State.stackCheck_frame]
@[simp] theorem State.stackCheck_alt1 (ea : Word) (c : Bool) (s : State) : (s.stackCheck ea c).alt1 = s.alt1 := by rw [State.stackCheck_frame]
@[simp] theorem State.stackCheck_alt2 (ea : Word) (c : Bool) (s : State) : (s.stackCheck ea c).alt2 = s.alt2 := by rw [State.stackCheck_frame]
@[simp] theorem State.stackCheck_w15 (ea : Word) (c : Bool) (s : State) : (s.stackCheck ea c).w15 = s.w15 := by rw [State.stackCheck_frame]
@[simp] theorem State.stackCheck_sr (ea : Word) (c : Bool) (s : State) : (s.stackCheck ea c).sr = s.sr := by rw [State.stackCheck_frame]
@[simp] theorem State.stackCheck_corcon (ea : Word) (c : Bool) (s : State) : (s.stackCheck ea c).corcon = s.corcon := by rw [State.stackCheck_frame]
@[simp] theorem State.stackCheck_intcon2 (ea : Word) (c : Bool) (s : State) : (s.stackCheck ea c).intcon2 = s.intcon2 := by rw [State.stackCheck_frame]
@[simp] theorem State.stackCheck_intcon3 (ea : Word) (c : Bool) (s : State) : (s.stackCheck ea c).intcon3 = s.intcon3 := by rw [State.stackCheck_frame]
@[simp] theorem State.stackCheck_intcon4 (ea : Word) (c : Bool) (s : State) : (s.stackCheck ea c).intcon4 = s.intcon4 := by rw [State.stackCheck_frame]
@[simp] theorem State.stackCheck_ifs (ea : Word) (c : Bool) (s : State) : (s.stackCheck ea c).ifs = s.ifs := by rw [State.stackCheck_frame]
@[simp] theorem State.stackCheck_iec (ea : Word) (c : Bool) (s : State) : (s.stackCheck ea c).iec = s.iec := by rw [State.stackCheck_frame]
@[simp] theorem State.stackCheck_ipc (ea : Word) (c : Bool) (s : State) : (s.stackCheck ea c).ipc = s.ipc := by rw [State.stackCheck_frame]
@[simp] theorem State.stackCheck_inttreg (ea : Word) (c : Bool) (s : State) : (s.stackCheck ea c).inttreg = s.inttreg := by rw [State.stackCheck_frame]
@[simp] theorem State.stackCheck_disicnt (ea : Word) (c : Bool) (s : State) : (s.stackCheck ea c).disicnt = s.disicnt := by rw [State.stackCheck_frame]
@[simp] theorem State.stackCheck_splim (ea : Word) (c : Bool) (s : State) : (s.stackCheck ea c).splim = s.splim := by rw [State.stackCheck_frame]
@[simp] theorem State.stackCheck_rcon (ea : Word) (c : Bool) (s : State) : (s.stackCheck ea c).rcon = s.rcon := by rw [State.stackCheck_frame]
@[simp] theorem State.stackCheck_osccon (ea : Word) (c : Bool) (s : State) : (s.stackCheck ea c).osccon = s.osccon := by rw [State.stackCheck_frame]
@[simp] theorem State.stackCheck_dsrpag (ea : Word) (c : Bool) (s : State) : (s.stackCheck ea c).dsrpag = s.dsrpag := by rw [State.stackCheck_frame]
@[simp] theorem State.stackCheck_dswpag (ea : Word) (c : Bool) (s : State) : (s.stackCheck ea c).dswpag = s.dswpag := by rw [State.stackCheck_frame]
@[simp] theorem State.stackCheck_accA (ea : Word) (c : Bool) (s : State) : (s.stackCheck ea c).accA = s.accA := by rw [State.stackCheck_frame]
@[simp] theorem State.stackCheck_accB (ea : Word) (c : Bool) (s : State) : (s.stackCheck ea c).accB = s.accB := by rw [State.stackCheck_frame]
@[simp] theorem State.stackCheck_doStack (ea : Word) (c : Bool) (s : State) : (s.stackCheck ea c).doStack = s.doStack := by rw [State.stackCheck_frame]
@[simp] theorem State.stackCheck_ram (ea : Word) (c : Bool) (s : State) : (s.stackCheck ea c).ram = s.ram := by rw [State.stackCheck_frame]
@[simp] theorem State.stackCheck_prog (ea : Word) (c : Bool) (s : State) : (s.stackCheck ea c).prog = s.prog := by rw [State.stackCheck_frame]
@[simp] theorem State.stackCheck_dev (ea : Word) (c : Bool) (s : State) : (s.stackCheck ea c).dev = s.dev := by rw [State.stackCheck_frame]
@[simp] theorem State.stackCheck_splimWritten (ea : Word) (c : Bool) (s : State) : (s.stackCheck ea c).splimWritten = s.splimWritten := by rw [State.stackCheck_frame]
@[simp] theorem State.stackCheck_activeCtx (ea : Word) (c : Bool) (s : State) : (s.stackCheck ea c).activeCtx = s.activeCtx := by rw [State.stackCheck_frame]
@[simp] theorem State.stackCheck_ctxStack (ea : Word) (c : Bool) (s : State) : (s.stackCheck ea c).ctxStack = s.ctxStack := by rw [State.stackCheck_frame]
@[simp] theorem State.stackCheck_gieLag (ea : Word) (c : Bool) (s : State) : (s.stackCheck ea c).gieLag = s.gieLag := by rw [State.stackCheck_frame]
@[simp] theorem State.stackCheck_skid (ea : Word) (c : Bool) (s : State) : (s.stackCheck ea c).skid = s.skid := by rw [State.stackCheck_frame]
@[simp] theorem State.stackCheck_skidBound (ea : Word) (c : Bool) (s : State) : (s.stackCheck ea c).skidBound = s.skidBound := by rw [State.stackCheck_frame]
@[simp] theorem State.stackCheck_mode (ea : Word) (c : Bool) (s : State) : (s.stackCheck ea c).mode = s.mode := by rw [State.stackCheck_frame]
@[simp] theorem State.stackCheck_pins (ea : Word) (c : Bool) (s : State) : (s.stackCheck ea c).pins = s.pins := by rw [State.stackCheck_frame]
@[simp] theorem State.stackCheck_symbolic (ea : Word) (c : Bool) (s : State) : (s.stackCheck ea c).symbolic = s.symbolic := by rw [State.stackCheck_frame]
@[simp] theorem State.stackCheck_env (ea : Word) (c : Bool) (s : State) : (s.stackCheck ea c).env = s.env := by rw [State.stackCheck_frame]
@[simp] theorem State.stackCheck_ramSeed (ea : Word) (c : Bool) (s : State) : (s.stackCheck ea c).ramSeed = s.ramSeed := by rw [State.stackCheck_frame]
@[simp] theorem State.stackCheck_free (ea : Word) (c : Bool) (s : State) : (s.stackCheck ea c).free = s.free := by rw [State.stackCheck_frame]

/-! ### underflowCheck -/

@[simp] theorem State.underflowCheck_pc (s : State) : (s.underflowCheck).pc = s.pc := by rw [State.underflowCheck_frame]
@[simp] theorem State.underflowCheck_w (s : State) : (s.underflowCheck).w = s.w := by rw [State.underflowCheck_frame]
@[simp] theorem State.underflowCheck_alt1 (s : State) : (s.underflowCheck).alt1 = s.alt1 := by rw [State.underflowCheck_frame]
@[simp] theorem State.underflowCheck_alt2 (s : State) : (s.underflowCheck).alt2 = s.alt2 := by rw [State.underflowCheck_frame]
@[simp] theorem State.underflowCheck_w15 (s : State) : (s.underflowCheck).w15 = s.w15 := by rw [State.underflowCheck_frame]
@[simp] theorem State.underflowCheck_sr (s : State) : (s.underflowCheck).sr = s.sr := by rw [State.underflowCheck_frame]
@[simp] theorem State.underflowCheck_corcon (s : State) : (s.underflowCheck).corcon = s.corcon := by rw [State.underflowCheck_frame]
@[simp] theorem State.underflowCheck_intcon2 (s : State) : (s.underflowCheck).intcon2 = s.intcon2 := by rw [State.underflowCheck_frame]
@[simp] theorem State.underflowCheck_intcon3 (s : State) : (s.underflowCheck).intcon3 = s.intcon3 := by rw [State.underflowCheck_frame]
@[simp] theorem State.underflowCheck_intcon4 (s : State) : (s.underflowCheck).intcon4 = s.intcon4 := by rw [State.underflowCheck_frame]
@[simp] theorem State.underflowCheck_ifs (s : State) : (s.underflowCheck).ifs = s.ifs := by rw [State.underflowCheck_frame]
@[simp] theorem State.underflowCheck_iec (s : State) : (s.underflowCheck).iec = s.iec := by rw [State.underflowCheck_frame]
@[simp] theorem State.underflowCheck_ipc (s : State) : (s.underflowCheck).ipc = s.ipc := by rw [State.underflowCheck_frame]
@[simp] theorem State.underflowCheck_inttreg (s : State) : (s.underflowCheck).inttreg = s.inttreg := by rw [State.underflowCheck_frame]
@[simp] theorem State.underflowCheck_disicnt (s : State) : (s.underflowCheck).disicnt = s.disicnt := by rw [State.underflowCheck_frame]
@[simp] theorem State.underflowCheck_splim (s : State) : (s.underflowCheck).splim = s.splim := by rw [State.underflowCheck_frame]
@[simp] theorem State.underflowCheck_rcon (s : State) : (s.underflowCheck).rcon = s.rcon := by rw [State.underflowCheck_frame]
@[simp] theorem State.underflowCheck_osccon (s : State) : (s.underflowCheck).osccon = s.osccon := by rw [State.underflowCheck_frame]
@[simp] theorem State.underflowCheck_dsrpag (s : State) : (s.underflowCheck).dsrpag = s.dsrpag := by rw [State.underflowCheck_frame]
@[simp] theorem State.underflowCheck_dswpag (s : State) : (s.underflowCheck).dswpag = s.dswpag := by rw [State.underflowCheck_frame]
@[simp] theorem State.underflowCheck_accA (s : State) : (s.underflowCheck).accA = s.accA := by rw [State.underflowCheck_frame]
@[simp] theorem State.underflowCheck_accB (s : State) : (s.underflowCheck).accB = s.accB := by rw [State.underflowCheck_frame]
@[simp] theorem State.underflowCheck_doStack (s : State) : (s.underflowCheck).doStack = s.doStack := by rw [State.underflowCheck_frame]
@[simp] theorem State.underflowCheck_ram (s : State) : (s.underflowCheck).ram = s.ram := by rw [State.underflowCheck_frame]
@[simp] theorem State.underflowCheck_prog (s : State) : (s.underflowCheck).prog = s.prog := by rw [State.underflowCheck_frame]
@[simp] theorem State.underflowCheck_dev (s : State) : (s.underflowCheck).dev = s.dev := by rw [State.underflowCheck_frame]
@[simp] theorem State.underflowCheck_splimWritten (s : State) : (s.underflowCheck).splimWritten = s.splimWritten := by rw [State.underflowCheck_frame]
@[simp] theorem State.underflowCheck_activeCtx (s : State) : (s.underflowCheck).activeCtx = s.activeCtx := by rw [State.underflowCheck_frame]
@[simp] theorem State.underflowCheck_ctxStack (s : State) : (s.underflowCheck).ctxStack = s.ctxStack := by rw [State.underflowCheck_frame]
@[simp] theorem State.underflowCheck_gieLag (s : State) : (s.underflowCheck).gieLag = s.gieLag := by rw [State.underflowCheck_frame]
@[simp] theorem State.underflowCheck_skid (s : State) : (s.underflowCheck).skid = s.skid := by rw [State.underflowCheck_frame]
@[simp] theorem State.underflowCheck_skidBound (s : State) : (s.underflowCheck).skidBound = s.skidBound := by rw [State.underflowCheck_frame]
@[simp] theorem State.underflowCheck_mode (s : State) : (s.underflowCheck).mode = s.mode := by rw [State.underflowCheck_frame]
@[simp] theorem State.underflowCheck_pins (s : State) : (s.underflowCheck).pins = s.pins := by rw [State.underflowCheck_frame]
@[simp] theorem State.underflowCheck_symbolic (s : State) : (s.underflowCheck).symbolic = s.symbolic := by rw [State.underflowCheck_frame]
@[simp] theorem State.underflowCheck_env (s : State) : (s.underflowCheck).env = s.env := by rw [State.underflowCheck_frame]
@[simp] theorem State.underflowCheck_ramSeed (s : State) : (s.underflowCheck).ramSeed = s.ramSeed := by rw [State.underflowCheck_frame]
@[simp] theorem State.underflowCheck_free (s : State) : (s.underflowCheck).free = s.free := by rw [State.underflowCheck_frame]

/-! ### underflowAfter -/

@[simp] theorem State.underflowAfter_pc (used : Bool) (old : Word) (s : State) : (s.underflowAfter used old).pc = s.pc := by rw [State.underflowAfter_frame]
@[simp] theorem State.underflowAfter_w (used : Bool) (old : Word) (s : State) : (s.underflowAfter used old).w = s.w := by rw [State.underflowAfter_frame]
@[simp] theorem State.underflowAfter_alt1 (used : Bool) (old : Word) (s : State) : (s.underflowAfter used old).alt1 = s.alt1 := by rw [State.underflowAfter_frame]
@[simp] theorem State.underflowAfter_alt2 (used : Bool) (old : Word) (s : State) : (s.underflowAfter used old).alt2 = s.alt2 := by rw [State.underflowAfter_frame]
@[simp] theorem State.underflowAfter_w15 (used : Bool) (old : Word) (s : State) : (s.underflowAfter used old).w15 = s.w15 := by rw [State.underflowAfter_frame]
@[simp] theorem State.underflowAfter_sr (used : Bool) (old : Word) (s : State) : (s.underflowAfter used old).sr = s.sr := by rw [State.underflowAfter_frame]
@[simp] theorem State.underflowAfter_corcon (used : Bool) (old : Word) (s : State) : (s.underflowAfter used old).corcon = s.corcon := by rw [State.underflowAfter_frame]
@[simp] theorem State.underflowAfter_intcon2 (used : Bool) (old : Word) (s : State) : (s.underflowAfter used old).intcon2 = s.intcon2 := by rw [State.underflowAfter_frame]
@[simp] theorem State.underflowAfter_intcon3 (used : Bool) (old : Word) (s : State) : (s.underflowAfter used old).intcon3 = s.intcon3 := by rw [State.underflowAfter_frame]
@[simp] theorem State.underflowAfter_intcon4 (used : Bool) (old : Word) (s : State) : (s.underflowAfter used old).intcon4 = s.intcon4 := by rw [State.underflowAfter_frame]
@[simp] theorem State.underflowAfter_ifs (used : Bool) (old : Word) (s : State) : (s.underflowAfter used old).ifs = s.ifs := by rw [State.underflowAfter_frame]
@[simp] theorem State.underflowAfter_iec (used : Bool) (old : Word) (s : State) : (s.underflowAfter used old).iec = s.iec := by rw [State.underflowAfter_frame]
@[simp] theorem State.underflowAfter_ipc (used : Bool) (old : Word) (s : State) : (s.underflowAfter used old).ipc = s.ipc := by rw [State.underflowAfter_frame]
@[simp] theorem State.underflowAfter_inttreg (used : Bool) (old : Word) (s : State) : (s.underflowAfter used old).inttreg = s.inttreg := by rw [State.underflowAfter_frame]
@[simp] theorem State.underflowAfter_disicnt (used : Bool) (old : Word) (s : State) : (s.underflowAfter used old).disicnt = s.disicnt := by rw [State.underflowAfter_frame]
@[simp] theorem State.underflowAfter_splim (used : Bool) (old : Word) (s : State) : (s.underflowAfter used old).splim = s.splim := by rw [State.underflowAfter_frame]
@[simp] theorem State.underflowAfter_rcon (used : Bool) (old : Word) (s : State) : (s.underflowAfter used old).rcon = s.rcon := by rw [State.underflowAfter_frame]
@[simp] theorem State.underflowAfter_osccon (used : Bool) (old : Word) (s : State) : (s.underflowAfter used old).osccon = s.osccon := by rw [State.underflowAfter_frame]
@[simp] theorem State.underflowAfter_dsrpag (used : Bool) (old : Word) (s : State) : (s.underflowAfter used old).dsrpag = s.dsrpag := by rw [State.underflowAfter_frame]
@[simp] theorem State.underflowAfter_dswpag (used : Bool) (old : Word) (s : State) : (s.underflowAfter used old).dswpag = s.dswpag := by rw [State.underflowAfter_frame]
@[simp] theorem State.underflowAfter_accA (used : Bool) (old : Word) (s : State) : (s.underflowAfter used old).accA = s.accA := by rw [State.underflowAfter_frame]
@[simp] theorem State.underflowAfter_accB (used : Bool) (old : Word) (s : State) : (s.underflowAfter used old).accB = s.accB := by rw [State.underflowAfter_frame]
@[simp] theorem State.underflowAfter_doStack (used : Bool) (old : Word) (s : State) : (s.underflowAfter used old).doStack = s.doStack := by rw [State.underflowAfter_frame]
@[simp] theorem State.underflowAfter_ram (used : Bool) (old : Word) (s : State) : (s.underflowAfter used old).ram = s.ram := by rw [State.underflowAfter_frame]
@[simp] theorem State.underflowAfter_prog (used : Bool) (old : Word) (s : State) : (s.underflowAfter used old).prog = s.prog := by rw [State.underflowAfter_frame]
@[simp] theorem State.underflowAfter_dev (used : Bool) (old : Word) (s : State) : (s.underflowAfter used old).dev = s.dev := by rw [State.underflowAfter_frame]
@[simp] theorem State.underflowAfter_splimWritten (used : Bool) (old : Word) (s : State) : (s.underflowAfter used old).splimWritten = s.splimWritten := by rw [State.underflowAfter_frame]
@[simp] theorem State.underflowAfter_activeCtx (used : Bool) (old : Word) (s : State) : (s.underflowAfter used old).activeCtx = s.activeCtx := by rw [State.underflowAfter_frame]
@[simp] theorem State.underflowAfter_ctxStack (used : Bool) (old : Word) (s : State) : (s.underflowAfter used old).ctxStack = s.ctxStack := by rw [State.underflowAfter_frame]
@[simp] theorem State.underflowAfter_gieLag (used : Bool) (old : Word) (s : State) : (s.underflowAfter used old).gieLag = s.gieLag := by rw [State.underflowAfter_frame]
@[simp] theorem State.underflowAfter_skid (used : Bool) (old : Word) (s : State) : (s.underflowAfter used old).skid = s.skid := by rw [State.underflowAfter_frame]
@[simp] theorem State.underflowAfter_skidBound (used : Bool) (old : Word) (s : State) : (s.underflowAfter used old).skidBound = s.skidBound := by rw [State.underflowAfter_frame]
@[simp] theorem State.underflowAfter_mode (used : Bool) (old : Word) (s : State) : (s.underflowAfter used old).mode = s.mode := by rw [State.underflowAfter_frame]
@[simp] theorem State.underflowAfter_pins (used : Bool) (old : Word) (s : State) : (s.underflowAfter used old).pins = s.pins := by rw [State.underflowAfter_frame]
@[simp] theorem State.underflowAfter_symbolic (used : Bool) (old : Word) (s : State) : (s.underflowAfter used old).symbolic = s.symbolic := by rw [State.underflowAfter_frame]
@[simp] theorem State.underflowAfter_env (used : Bool) (old : Word) (s : State) : (s.underflowAfter used old).env = s.env := by rw [State.underflowAfter_frame]
@[simp] theorem State.underflowAfter_ramSeed (used : Bool) (old : Word) (s : State) : (s.underflowAfter used old).ramSeed = s.ramSeed := by rw [State.underflowAfter_frame]
@[simp] theorem State.underflowAfter_free (used : Bool) (old : Word) (s : State) : (s.underflowAfter used old).free = s.free := by rw [State.underflowAfter_frame]

/-! ### pointerCheck -/

@[simp] theorem State.pointerCheck_pc (p : WReg) (ea : Word) (c : Bool) (s : State) : (s.pointerCheck p ea c).pc = s.pc := by rw [State.pointerCheck_frame]
@[simp] theorem State.pointerCheck_w (p : WReg) (ea : Word) (c : Bool) (s : State) : (s.pointerCheck p ea c).w = s.w := by rw [State.pointerCheck_frame]
@[simp] theorem State.pointerCheck_alt1 (p : WReg) (ea : Word) (c : Bool) (s : State) : (s.pointerCheck p ea c).alt1 = s.alt1 := by rw [State.pointerCheck_frame]
@[simp] theorem State.pointerCheck_alt2 (p : WReg) (ea : Word) (c : Bool) (s : State) : (s.pointerCheck p ea c).alt2 = s.alt2 := by rw [State.pointerCheck_frame]
@[simp] theorem State.pointerCheck_w15 (p : WReg) (ea : Word) (c : Bool) (s : State) : (s.pointerCheck p ea c).w15 = s.w15 := by rw [State.pointerCheck_frame]
@[simp] theorem State.pointerCheck_sr (p : WReg) (ea : Word) (c : Bool) (s : State) : (s.pointerCheck p ea c).sr = s.sr := by rw [State.pointerCheck_frame]
@[simp] theorem State.pointerCheck_corcon (p : WReg) (ea : Word) (c : Bool) (s : State) : (s.pointerCheck p ea c).corcon = s.corcon := by rw [State.pointerCheck_frame]
@[simp] theorem State.pointerCheck_intcon2 (p : WReg) (ea : Word) (c : Bool) (s : State) : (s.pointerCheck p ea c).intcon2 = s.intcon2 := by rw [State.pointerCheck_frame]
@[simp] theorem State.pointerCheck_intcon3 (p : WReg) (ea : Word) (c : Bool) (s : State) : (s.pointerCheck p ea c).intcon3 = s.intcon3 := by rw [State.pointerCheck_frame]
@[simp] theorem State.pointerCheck_intcon4 (p : WReg) (ea : Word) (c : Bool) (s : State) : (s.pointerCheck p ea c).intcon4 = s.intcon4 := by rw [State.pointerCheck_frame]
@[simp] theorem State.pointerCheck_ifs (p : WReg) (ea : Word) (c : Bool) (s : State) : (s.pointerCheck p ea c).ifs = s.ifs := by rw [State.pointerCheck_frame]
@[simp] theorem State.pointerCheck_iec (p : WReg) (ea : Word) (c : Bool) (s : State) : (s.pointerCheck p ea c).iec = s.iec := by rw [State.pointerCheck_frame]
@[simp] theorem State.pointerCheck_ipc (p : WReg) (ea : Word) (c : Bool) (s : State) : (s.pointerCheck p ea c).ipc = s.ipc := by rw [State.pointerCheck_frame]
@[simp] theorem State.pointerCheck_inttreg (p : WReg) (ea : Word) (c : Bool) (s : State) : (s.pointerCheck p ea c).inttreg = s.inttreg := by rw [State.pointerCheck_frame]
@[simp] theorem State.pointerCheck_disicnt (p : WReg) (ea : Word) (c : Bool) (s : State) : (s.pointerCheck p ea c).disicnt = s.disicnt := by rw [State.pointerCheck_frame]
@[simp] theorem State.pointerCheck_splim (p : WReg) (ea : Word) (c : Bool) (s : State) : (s.pointerCheck p ea c).splim = s.splim := by rw [State.pointerCheck_frame]
@[simp] theorem State.pointerCheck_rcon (p : WReg) (ea : Word) (c : Bool) (s : State) : (s.pointerCheck p ea c).rcon = s.rcon := by rw [State.pointerCheck_frame]
@[simp] theorem State.pointerCheck_osccon (p : WReg) (ea : Word) (c : Bool) (s : State) : (s.pointerCheck p ea c).osccon = s.osccon := by rw [State.pointerCheck_frame]
@[simp] theorem State.pointerCheck_dsrpag (p : WReg) (ea : Word) (c : Bool) (s : State) : (s.pointerCheck p ea c).dsrpag = s.dsrpag := by rw [State.pointerCheck_frame]
@[simp] theorem State.pointerCheck_dswpag (p : WReg) (ea : Word) (c : Bool) (s : State) : (s.pointerCheck p ea c).dswpag = s.dswpag := by rw [State.pointerCheck_frame]
@[simp] theorem State.pointerCheck_accA (p : WReg) (ea : Word) (c : Bool) (s : State) : (s.pointerCheck p ea c).accA = s.accA := by rw [State.pointerCheck_frame]
@[simp] theorem State.pointerCheck_accB (p : WReg) (ea : Word) (c : Bool) (s : State) : (s.pointerCheck p ea c).accB = s.accB := by rw [State.pointerCheck_frame]
@[simp] theorem State.pointerCheck_doStack (p : WReg) (ea : Word) (c : Bool) (s : State) : (s.pointerCheck p ea c).doStack = s.doStack := by rw [State.pointerCheck_frame]
@[simp] theorem State.pointerCheck_ram (p : WReg) (ea : Word) (c : Bool) (s : State) : (s.pointerCheck p ea c).ram = s.ram := by rw [State.pointerCheck_frame]
@[simp] theorem State.pointerCheck_prog (p : WReg) (ea : Word) (c : Bool) (s : State) : (s.pointerCheck p ea c).prog = s.prog := by rw [State.pointerCheck_frame]
@[simp] theorem State.pointerCheck_dev (p : WReg) (ea : Word) (c : Bool) (s : State) : (s.pointerCheck p ea c).dev = s.dev := by rw [State.pointerCheck_frame]
@[simp] theorem State.pointerCheck_splimWritten (p : WReg) (ea : Word) (c : Bool) (s : State) : (s.pointerCheck p ea c).splimWritten = s.splimWritten := by rw [State.pointerCheck_frame]
@[simp] theorem State.pointerCheck_activeCtx (p : WReg) (ea : Word) (c : Bool) (s : State) : (s.pointerCheck p ea c).activeCtx = s.activeCtx := by rw [State.pointerCheck_frame]
@[simp] theorem State.pointerCheck_ctxStack (p : WReg) (ea : Word) (c : Bool) (s : State) : (s.pointerCheck p ea c).ctxStack = s.ctxStack := by rw [State.pointerCheck_frame]
@[simp] theorem State.pointerCheck_gieLag (p : WReg) (ea : Word) (c : Bool) (s : State) : (s.pointerCheck p ea c).gieLag = s.gieLag := by rw [State.pointerCheck_frame]
@[simp] theorem State.pointerCheck_skid (p : WReg) (ea : Word) (c : Bool) (s : State) : (s.pointerCheck p ea c).skid = s.skid := by rw [State.pointerCheck_frame]
@[simp] theorem State.pointerCheck_skidBound (p : WReg) (ea : Word) (c : Bool) (s : State) : (s.pointerCheck p ea c).skidBound = s.skidBound := by rw [State.pointerCheck_frame]
@[simp] theorem State.pointerCheck_mode (p : WReg) (ea : Word) (c : Bool) (s : State) : (s.pointerCheck p ea c).mode = s.mode := by rw [State.pointerCheck_frame]
@[simp] theorem State.pointerCheck_pins (p : WReg) (ea : Word) (c : Bool) (s : State) : (s.pointerCheck p ea c).pins = s.pins := by rw [State.pointerCheck_frame]
@[simp] theorem State.pointerCheck_symbolic (p : WReg) (ea : Word) (c : Bool) (s : State) : (s.pointerCheck p ea c).symbolic = s.symbolic := by rw [State.pointerCheck_frame]
@[simp] theorem State.pointerCheck_env (p : WReg) (ea : Word) (c : Bool) (s : State) : (s.pointerCheck p ea c).env = s.env := by rw [State.pointerCheck_frame]
@[simp] theorem State.pointerCheck_ramSeed (p : WReg) (ea : Word) (c : Bool) (s : State) : (s.pointerCheck p ea c).ramSeed = s.ramSeed := by rw [State.pointerCheck_frame]
@[simp] theorem State.pointerCheck_free (p : WReg) (ea : Word) (c : Bool) (s : State) : (s.pointerCheck p ea c).free = s.free := by rw [State.pointerCheck_frame]

/-! ### operandCheck -/

@[simp] theorem State.operandCheck_pc (op : Operand) (s : State) : (s.operandCheck op).pc = s.pc := by rw [State.operandCheck_frame]
@[simp] theorem State.operandCheck_w (op : Operand) (s : State) : (s.operandCheck op).w = s.w := by rw [State.operandCheck_frame]
@[simp] theorem State.operandCheck_alt1 (op : Operand) (s : State) : (s.operandCheck op).alt1 = s.alt1 := by rw [State.operandCheck_frame]
@[simp] theorem State.operandCheck_alt2 (op : Operand) (s : State) : (s.operandCheck op).alt2 = s.alt2 := by rw [State.operandCheck_frame]
@[simp] theorem State.operandCheck_w15 (op : Operand) (s : State) : (s.operandCheck op).w15 = s.w15 := by rw [State.operandCheck_frame]
@[simp] theorem State.operandCheck_sr (op : Operand) (s : State) : (s.operandCheck op).sr = s.sr := by rw [State.operandCheck_frame]
@[simp] theorem State.operandCheck_corcon (op : Operand) (s : State) : (s.operandCheck op).corcon = s.corcon := by rw [State.operandCheck_frame]
@[simp] theorem State.operandCheck_intcon2 (op : Operand) (s : State) : (s.operandCheck op).intcon2 = s.intcon2 := by rw [State.operandCheck_frame]
@[simp] theorem State.operandCheck_intcon3 (op : Operand) (s : State) : (s.operandCheck op).intcon3 = s.intcon3 := by rw [State.operandCheck_frame]
@[simp] theorem State.operandCheck_intcon4 (op : Operand) (s : State) : (s.operandCheck op).intcon4 = s.intcon4 := by rw [State.operandCheck_frame]
@[simp] theorem State.operandCheck_ifs (op : Operand) (s : State) : (s.operandCheck op).ifs = s.ifs := by rw [State.operandCheck_frame]
@[simp] theorem State.operandCheck_iec (op : Operand) (s : State) : (s.operandCheck op).iec = s.iec := by rw [State.operandCheck_frame]
@[simp] theorem State.operandCheck_ipc (op : Operand) (s : State) : (s.operandCheck op).ipc = s.ipc := by rw [State.operandCheck_frame]
@[simp] theorem State.operandCheck_inttreg (op : Operand) (s : State) : (s.operandCheck op).inttreg = s.inttreg := by rw [State.operandCheck_frame]
@[simp] theorem State.operandCheck_disicnt (op : Operand) (s : State) : (s.operandCheck op).disicnt = s.disicnt := by rw [State.operandCheck_frame]
@[simp] theorem State.operandCheck_splim (op : Operand) (s : State) : (s.operandCheck op).splim = s.splim := by rw [State.operandCheck_frame]
@[simp] theorem State.operandCheck_rcon (op : Operand) (s : State) : (s.operandCheck op).rcon = s.rcon := by rw [State.operandCheck_frame]
@[simp] theorem State.operandCheck_osccon (op : Operand) (s : State) : (s.operandCheck op).osccon = s.osccon := by rw [State.operandCheck_frame]
@[simp] theorem State.operandCheck_dsrpag (op : Operand) (s : State) : (s.operandCheck op).dsrpag = s.dsrpag := by rw [State.operandCheck_frame]
@[simp] theorem State.operandCheck_dswpag (op : Operand) (s : State) : (s.operandCheck op).dswpag = s.dswpag := by rw [State.operandCheck_frame]
@[simp] theorem State.operandCheck_accA (op : Operand) (s : State) : (s.operandCheck op).accA = s.accA := by rw [State.operandCheck_frame]
@[simp] theorem State.operandCheck_accB (op : Operand) (s : State) : (s.operandCheck op).accB = s.accB := by rw [State.operandCheck_frame]
@[simp] theorem State.operandCheck_doStack (op : Operand) (s : State) : (s.operandCheck op).doStack = s.doStack := by rw [State.operandCheck_frame]
@[simp] theorem State.operandCheck_ram (op : Operand) (s : State) : (s.operandCheck op).ram = s.ram := by rw [State.operandCheck_frame]
@[simp] theorem State.operandCheck_prog (op : Operand) (s : State) : (s.operandCheck op).prog = s.prog := by rw [State.operandCheck_frame]
@[simp] theorem State.operandCheck_dev (op : Operand) (s : State) : (s.operandCheck op).dev = s.dev := by rw [State.operandCheck_frame]
@[simp] theorem State.operandCheck_splimWritten (op : Operand) (s : State) : (s.operandCheck op).splimWritten = s.splimWritten := by rw [State.operandCheck_frame]
@[simp] theorem State.operandCheck_activeCtx (op : Operand) (s : State) : (s.operandCheck op).activeCtx = s.activeCtx := by rw [State.operandCheck_frame]
@[simp] theorem State.operandCheck_ctxStack (op : Operand) (s : State) : (s.operandCheck op).ctxStack = s.ctxStack := by rw [State.operandCheck_frame]
@[simp] theorem State.operandCheck_gieLag (op : Operand) (s : State) : (s.operandCheck op).gieLag = s.gieLag := by rw [State.operandCheck_frame]
@[simp] theorem State.operandCheck_skid (op : Operand) (s : State) : (s.operandCheck op).skid = s.skid := by rw [State.operandCheck_frame]
@[simp] theorem State.operandCheck_skidBound (op : Operand) (s : State) : (s.operandCheck op).skidBound = s.skidBound := by rw [State.operandCheck_frame]
@[simp] theorem State.operandCheck_mode (op : Operand) (s : State) : (s.operandCheck op).mode = s.mode := by rw [State.operandCheck_frame]
@[simp] theorem State.operandCheck_pins (op : Operand) (s : State) : (s.operandCheck op).pins = s.pins := by rw [State.operandCheck_frame]
@[simp] theorem State.operandCheck_symbolic (op : Operand) (s : State) : (s.operandCheck op).symbolic = s.symbolic := by rw [State.operandCheck_frame]
@[simp] theorem State.operandCheck_env (op : Operand) (s : State) : (s.operandCheck op).env = s.env := by rw [State.operandCheck_frame]
@[simp] theorem State.operandCheck_ramSeed (op : Operand) (s : State) : (s.operandCheck op).ramSeed = s.ramSeed := by rw [State.operandCheck_frame]
@[simp] theorem State.operandCheck_free (op : Operand) (s : State) : (s.operandCheck op).free = s.free := by rw [State.operandCheck_frame]

/-! ### dwCheck -/

@[simp] theorem State.dwCheck_pc (op : DwOperand) (s : State) : (s.dwCheck op).pc = s.pc := by rw [State.dwCheck_frame]
@[simp] theorem State.dwCheck_w (op : DwOperand) (s : State) : (s.dwCheck op).w = s.w := by rw [State.dwCheck_frame]
@[simp] theorem State.dwCheck_alt1 (op : DwOperand) (s : State) : (s.dwCheck op).alt1 = s.alt1 := by rw [State.dwCheck_frame]
@[simp] theorem State.dwCheck_alt2 (op : DwOperand) (s : State) : (s.dwCheck op).alt2 = s.alt2 := by rw [State.dwCheck_frame]
@[simp] theorem State.dwCheck_w15 (op : DwOperand) (s : State) : (s.dwCheck op).w15 = s.w15 := by rw [State.dwCheck_frame]
@[simp] theorem State.dwCheck_sr (op : DwOperand) (s : State) : (s.dwCheck op).sr = s.sr := by rw [State.dwCheck_frame]
@[simp] theorem State.dwCheck_corcon (op : DwOperand) (s : State) : (s.dwCheck op).corcon = s.corcon := by rw [State.dwCheck_frame]
@[simp] theorem State.dwCheck_intcon2 (op : DwOperand) (s : State) : (s.dwCheck op).intcon2 = s.intcon2 := by rw [State.dwCheck_frame]
@[simp] theorem State.dwCheck_intcon3 (op : DwOperand) (s : State) : (s.dwCheck op).intcon3 = s.intcon3 := by rw [State.dwCheck_frame]
@[simp] theorem State.dwCheck_intcon4 (op : DwOperand) (s : State) : (s.dwCheck op).intcon4 = s.intcon4 := by rw [State.dwCheck_frame]
@[simp] theorem State.dwCheck_ifs (op : DwOperand) (s : State) : (s.dwCheck op).ifs = s.ifs := by rw [State.dwCheck_frame]
@[simp] theorem State.dwCheck_iec (op : DwOperand) (s : State) : (s.dwCheck op).iec = s.iec := by rw [State.dwCheck_frame]
@[simp] theorem State.dwCheck_ipc (op : DwOperand) (s : State) : (s.dwCheck op).ipc = s.ipc := by rw [State.dwCheck_frame]
@[simp] theorem State.dwCheck_inttreg (op : DwOperand) (s : State) : (s.dwCheck op).inttreg = s.inttreg := by rw [State.dwCheck_frame]
@[simp] theorem State.dwCheck_disicnt (op : DwOperand) (s : State) : (s.dwCheck op).disicnt = s.disicnt := by rw [State.dwCheck_frame]
@[simp] theorem State.dwCheck_splim (op : DwOperand) (s : State) : (s.dwCheck op).splim = s.splim := by rw [State.dwCheck_frame]
@[simp] theorem State.dwCheck_rcon (op : DwOperand) (s : State) : (s.dwCheck op).rcon = s.rcon := by rw [State.dwCheck_frame]
@[simp] theorem State.dwCheck_osccon (op : DwOperand) (s : State) : (s.dwCheck op).osccon = s.osccon := by rw [State.dwCheck_frame]
@[simp] theorem State.dwCheck_dsrpag (op : DwOperand) (s : State) : (s.dwCheck op).dsrpag = s.dsrpag := by rw [State.dwCheck_frame]
@[simp] theorem State.dwCheck_dswpag (op : DwOperand) (s : State) : (s.dwCheck op).dswpag = s.dswpag := by rw [State.dwCheck_frame]
@[simp] theorem State.dwCheck_accA (op : DwOperand) (s : State) : (s.dwCheck op).accA = s.accA := by rw [State.dwCheck_frame]
@[simp] theorem State.dwCheck_accB (op : DwOperand) (s : State) : (s.dwCheck op).accB = s.accB := by rw [State.dwCheck_frame]
@[simp] theorem State.dwCheck_doStack (op : DwOperand) (s : State) : (s.dwCheck op).doStack = s.doStack := by rw [State.dwCheck_frame]
@[simp] theorem State.dwCheck_ram (op : DwOperand) (s : State) : (s.dwCheck op).ram = s.ram := by rw [State.dwCheck_frame]
@[simp] theorem State.dwCheck_prog (op : DwOperand) (s : State) : (s.dwCheck op).prog = s.prog := by rw [State.dwCheck_frame]
@[simp] theorem State.dwCheck_dev (op : DwOperand) (s : State) : (s.dwCheck op).dev = s.dev := by rw [State.dwCheck_frame]
@[simp] theorem State.dwCheck_splimWritten (op : DwOperand) (s : State) : (s.dwCheck op).splimWritten = s.splimWritten := by rw [State.dwCheck_frame]
@[simp] theorem State.dwCheck_activeCtx (op : DwOperand) (s : State) : (s.dwCheck op).activeCtx = s.activeCtx := by rw [State.dwCheck_frame]
@[simp] theorem State.dwCheck_ctxStack (op : DwOperand) (s : State) : (s.dwCheck op).ctxStack = s.ctxStack := by rw [State.dwCheck_frame]
@[simp] theorem State.dwCheck_gieLag (op : DwOperand) (s : State) : (s.dwCheck op).gieLag = s.gieLag := by rw [State.dwCheck_frame]
@[simp] theorem State.dwCheck_skid (op : DwOperand) (s : State) : (s.dwCheck op).skid = s.skid := by rw [State.dwCheck_frame]
@[simp] theorem State.dwCheck_skidBound (op : DwOperand) (s : State) : (s.dwCheck op).skidBound = s.skidBound := by rw [State.dwCheck_frame]
@[simp] theorem State.dwCheck_mode (op : DwOperand) (s : State) : (s.dwCheck op).mode = s.mode := by rw [State.dwCheck_frame]
@[simp] theorem State.dwCheck_pins (op : DwOperand) (s : State) : (s.dwCheck op).pins = s.pins := by rw [State.dwCheck_frame]
@[simp] theorem State.dwCheck_symbolic (op : DwOperand) (s : State) : (s.dwCheck op).symbolic = s.symbolic := by rw [State.dwCheck_frame]
@[simp] theorem State.dwCheck_env (op : DwOperand) (s : State) : (s.dwCheck op).env = s.env := by rw [State.dwCheck_frame]
@[simp] theorem State.dwCheck_ramSeed (op : DwOperand) (s : State) : (s.dwCheck op).ramSeed = s.ramSeed := by rw [State.dwCheck_frame]
@[simp] theorem State.dwCheck_free (op : DwOperand) (s : State) : (s.dwCheck op).free = s.free := by rw [State.dwCheck_frame]

/-! ### writeW -/

@[simp] theorem State.writeW_pc (i : WReg) (v : Word) (s : State) : (s.writeW i v).pc = s.pc := by rw [State.writeW_frame]
@[simp] theorem State.writeW_sr (i : WReg) (v : Word) (s : State) : (s.writeW i v).sr = s.sr := by rw [State.writeW_frame]
@[simp] theorem State.writeW_corcon (i : WReg) (v : Word) (s : State) : (s.writeW i v).corcon = s.corcon := by rw [State.writeW_frame]
@[simp] theorem State.writeW_intcon1 (i : WReg) (v : Word) (s : State) : (s.writeW i v).intcon1 = s.intcon1 := by rw [State.writeW_frame]
@[simp] theorem State.writeW_intcon2 (i : WReg) (v : Word) (s : State) : (s.writeW i v).intcon2 = s.intcon2 := by rw [State.writeW_frame]
@[simp] theorem State.writeW_intcon3 (i : WReg) (v : Word) (s : State) : (s.writeW i v).intcon3 = s.intcon3 := by rw [State.writeW_frame]
@[simp] theorem State.writeW_intcon4 (i : WReg) (v : Word) (s : State) : (s.writeW i v).intcon4 = s.intcon4 := by rw [State.writeW_frame]
@[simp] theorem State.writeW_ifs (i : WReg) (v : Word) (s : State) : (s.writeW i v).ifs = s.ifs := by rw [State.writeW_frame]
@[simp] theorem State.writeW_iec (i : WReg) (v : Word) (s : State) : (s.writeW i v).iec = s.iec := by rw [State.writeW_frame]
@[simp] theorem State.writeW_ipc (i : WReg) (v : Word) (s : State) : (s.writeW i v).ipc = s.ipc := by rw [State.writeW_frame]
@[simp] theorem State.writeW_inttreg (i : WReg) (v : Word) (s : State) : (s.writeW i v).inttreg = s.inttreg := by rw [State.writeW_frame]
@[simp] theorem State.writeW_disicnt (i : WReg) (v : Word) (s : State) : (s.writeW i v).disicnt = s.disicnt := by rw [State.writeW_frame]
@[simp] theorem State.writeW_splim (i : WReg) (v : Word) (s : State) : (s.writeW i v).splim = s.splim := by rw [State.writeW_frame]
@[simp] theorem State.writeW_rcon (i : WReg) (v : Word) (s : State) : (s.writeW i v).rcon = s.rcon := by rw [State.writeW_frame]
@[simp] theorem State.writeW_osccon (i : WReg) (v : Word) (s : State) : (s.writeW i v).osccon = s.osccon := by rw [State.writeW_frame]
@[simp] theorem State.writeW_dsrpag (i : WReg) (v : Word) (s : State) : (s.writeW i v).dsrpag = s.dsrpag := by rw [State.writeW_frame]
@[simp] theorem State.writeW_dswpag (i : WReg) (v : Word) (s : State) : (s.writeW i v).dswpag = s.dswpag := by rw [State.writeW_frame]
@[simp] theorem State.writeW_accA (i : WReg) (v : Word) (s : State) : (s.writeW i v).accA = s.accA := by rw [State.writeW_frame]
@[simp] theorem State.writeW_accB (i : WReg) (v : Word) (s : State) : (s.writeW i v).accB = s.accB := by rw [State.writeW_frame]
@[simp] theorem State.writeW_doStack (i : WReg) (v : Word) (s : State) : (s.writeW i v).doStack = s.doStack := by rw [State.writeW_frame]
@[simp] theorem State.writeW_ram (i : WReg) (v : Word) (s : State) : (s.writeW i v).ram = s.ram := by rw [State.writeW_frame]
@[simp] theorem State.writeW_prog (i : WReg) (v : Word) (s : State) : (s.writeW i v).prog = s.prog := by rw [State.writeW_frame]
@[simp] theorem State.writeW_dev (i : WReg) (v : Word) (s : State) : (s.writeW i v).dev = s.dev := by rw [State.writeW_frame]
@[simp] theorem State.writeW_splimWritten (i : WReg) (v : Word) (s : State) : (s.writeW i v).splimWritten = s.splimWritten := by rw [State.writeW_frame]
@[simp] theorem State.writeW_activeCtx (i : WReg) (v : Word) (s : State) : (s.writeW i v).activeCtx = s.activeCtx := by rw [State.writeW_frame]
@[simp] theorem State.writeW_ctxStack (i : WReg) (v : Word) (s : State) : (s.writeW i v).ctxStack = s.ctxStack := by rw [State.writeW_frame]
@[simp] theorem State.writeW_gieLag (i : WReg) (v : Word) (s : State) : (s.writeW i v).gieLag = s.gieLag := by rw [State.writeW_frame]
@[simp] theorem State.writeW_skid (i : WReg) (v : Word) (s : State) : (s.writeW i v).skid = s.skid := by rw [State.writeW_frame]
@[simp] theorem State.writeW_skidBound (i : WReg) (v : Word) (s : State) : (s.writeW i v).skidBound = s.skidBound := by rw [State.writeW_frame]
@[simp] theorem State.writeW_mode (i : WReg) (v : Word) (s : State) : (s.writeW i v).mode = s.mode := by rw [State.writeW_frame]
@[simp] theorem State.writeW_pins (i : WReg) (v : Word) (s : State) : (s.writeW i v).pins = s.pins := by rw [State.writeW_frame]
@[simp] theorem State.writeW_symbolic (i : WReg) (v : Word) (s : State) : (s.writeW i v).symbolic = s.symbolic := by rw [State.writeW_frame]
@[simp] theorem State.writeW_env (i : WReg) (v : Word) (s : State) : (s.writeW i v).env = s.env := by rw [State.writeW_frame]
@[simp] theorem State.writeW_ramSeed (i : WReg) (v : Word) (s : State) : (s.writeW i v).ramSeed = s.ramSeed := by rw [State.writeW_frame]
@[simp] theorem State.writeW_free (i : WReg) (v : Word) (s : State) : (s.writeW i v).free = s.free := by rw [State.writeW_frame]
@[simp] theorem State.writeW_log (i : WReg) (v : Word) (s : State) : (s.writeW i v).log = s.log := by rw [State.writeW_frame]

/-! ### freeRegs -/

@[simp] theorem State.freeRegs_pc (is : List WReg) (s : State) : (s.freeRegs is).pc = s.pc := by rw [State.freeRegs_frame]
@[simp] theorem State.freeRegs_sr (is : List WReg) (s : State) : (s.freeRegs is).sr = s.sr := by rw [State.freeRegs_frame]
@[simp] theorem State.freeRegs_corcon (is : List WReg) (s : State) : (s.freeRegs is).corcon = s.corcon := by rw [State.freeRegs_frame]
@[simp] theorem State.freeRegs_intcon1 (is : List WReg) (s : State) : (s.freeRegs is).intcon1 = s.intcon1 := by rw [State.freeRegs_frame]
@[simp] theorem State.freeRegs_intcon2 (is : List WReg) (s : State) : (s.freeRegs is).intcon2 = s.intcon2 := by rw [State.freeRegs_frame]
@[simp] theorem State.freeRegs_intcon3 (is : List WReg) (s : State) : (s.freeRegs is).intcon3 = s.intcon3 := by rw [State.freeRegs_frame]
@[simp] theorem State.freeRegs_intcon4 (is : List WReg) (s : State) : (s.freeRegs is).intcon4 = s.intcon4 := by rw [State.freeRegs_frame]
@[simp] theorem State.freeRegs_ifs (is : List WReg) (s : State) : (s.freeRegs is).ifs = s.ifs := by rw [State.freeRegs_frame]
@[simp] theorem State.freeRegs_iec (is : List WReg) (s : State) : (s.freeRegs is).iec = s.iec := by rw [State.freeRegs_frame]
@[simp] theorem State.freeRegs_ipc (is : List WReg) (s : State) : (s.freeRegs is).ipc = s.ipc := by rw [State.freeRegs_frame]
@[simp] theorem State.freeRegs_inttreg (is : List WReg) (s : State) : (s.freeRegs is).inttreg = s.inttreg := by rw [State.freeRegs_frame]
@[simp] theorem State.freeRegs_disicnt (is : List WReg) (s : State) : (s.freeRegs is).disicnt = s.disicnt := by rw [State.freeRegs_frame]
@[simp] theorem State.freeRegs_splim (is : List WReg) (s : State) : (s.freeRegs is).splim = s.splim := by rw [State.freeRegs_frame]
@[simp] theorem State.freeRegs_rcon (is : List WReg) (s : State) : (s.freeRegs is).rcon = s.rcon := by rw [State.freeRegs_frame]
@[simp] theorem State.freeRegs_osccon (is : List WReg) (s : State) : (s.freeRegs is).osccon = s.osccon := by rw [State.freeRegs_frame]
@[simp] theorem State.freeRegs_dsrpag (is : List WReg) (s : State) : (s.freeRegs is).dsrpag = s.dsrpag := by rw [State.freeRegs_frame]
@[simp] theorem State.freeRegs_dswpag (is : List WReg) (s : State) : (s.freeRegs is).dswpag = s.dswpag := by rw [State.freeRegs_frame]
@[simp] theorem State.freeRegs_accA (is : List WReg) (s : State) : (s.freeRegs is).accA = s.accA := by rw [State.freeRegs_frame]
@[simp] theorem State.freeRegs_accB (is : List WReg) (s : State) : (s.freeRegs is).accB = s.accB := by rw [State.freeRegs_frame]
@[simp] theorem State.freeRegs_doStack (is : List WReg) (s : State) : (s.freeRegs is).doStack = s.doStack := by rw [State.freeRegs_frame]
@[simp] theorem State.freeRegs_ram (is : List WReg) (s : State) : (s.freeRegs is).ram = s.ram := by rw [State.freeRegs_frame]
@[simp] theorem State.freeRegs_prog (is : List WReg) (s : State) : (s.freeRegs is).prog = s.prog := by rw [State.freeRegs_frame]
@[simp] theorem State.freeRegs_dev (is : List WReg) (s : State) : (s.freeRegs is).dev = s.dev := by rw [State.freeRegs_frame]
@[simp] theorem State.freeRegs_splimWritten (is : List WReg) (s : State) : (s.freeRegs is).splimWritten = s.splimWritten := by rw [State.freeRegs_frame]
@[simp] theorem State.freeRegs_activeCtx (is : List WReg) (s : State) : (s.freeRegs is).activeCtx = s.activeCtx := by rw [State.freeRegs_frame]
@[simp] theorem State.freeRegs_ctxStack (is : List WReg) (s : State) : (s.freeRegs is).ctxStack = s.ctxStack := by rw [State.freeRegs_frame]
@[simp] theorem State.freeRegs_gieLag (is : List WReg) (s : State) : (s.freeRegs is).gieLag = s.gieLag := by rw [State.freeRegs_frame]
@[simp] theorem State.freeRegs_skid (is : List WReg) (s : State) : (s.freeRegs is).skid = s.skid := by rw [State.freeRegs_frame]
@[simp] theorem State.freeRegs_skidBound (is : List WReg) (s : State) : (s.freeRegs is).skidBound = s.skidBound := by rw [State.freeRegs_frame]
@[simp] theorem State.freeRegs_mode (is : List WReg) (s : State) : (s.freeRegs is).mode = s.mode := by rw [State.freeRegs_frame]
@[simp] theorem State.freeRegs_pins (is : List WReg) (s : State) : (s.freeRegs is).pins = s.pins := by rw [State.freeRegs_frame]
@[simp] theorem State.freeRegs_symbolic (is : List WReg) (s : State) : (s.freeRegs is).symbolic = s.symbolic := by rw [State.freeRegs_frame]
@[simp] theorem State.freeRegs_env (is : List WReg) (s : State) : (s.freeRegs is).env = s.env := by rw [State.freeRegs_frame]
@[simp] theorem State.freeRegs_ramSeed (is : List WReg) (s : State) : (s.freeRegs is).ramSeed = s.ramSeed := by rw [State.freeRegs_frame]
@[simp] theorem State.freeRegs_log (is : List WReg) (s : State) : (s.freeRegs is).log = s.log := by rw [State.freeRegs_frame]

/-! ### setIfs -/

@[simp] theorem State.setIfs_pc (n : Nat) (s : State) : (s.setIfs n).pc = s.pc := by rw [State.setIfs_frame]
@[simp] theorem State.setIfs_w (n : Nat) (s : State) : (s.setIfs n).w = s.w := by rw [State.setIfs_frame]
@[simp] theorem State.setIfs_alt1 (n : Nat) (s : State) : (s.setIfs n).alt1 = s.alt1 := by rw [State.setIfs_frame]
@[simp] theorem State.setIfs_alt2 (n : Nat) (s : State) : (s.setIfs n).alt2 = s.alt2 := by rw [State.setIfs_frame]
@[simp] theorem State.setIfs_w15 (n : Nat) (s : State) : (s.setIfs n).w15 = s.w15 := by rw [State.setIfs_frame]
@[simp] theorem State.setIfs_sr (n : Nat) (s : State) : (s.setIfs n).sr = s.sr := by rw [State.setIfs_frame]
@[simp] theorem State.setIfs_corcon (n : Nat) (s : State) : (s.setIfs n).corcon = s.corcon := by rw [State.setIfs_frame]
@[simp] theorem State.setIfs_intcon1 (n : Nat) (s : State) : (s.setIfs n).intcon1 = s.intcon1 := by rw [State.setIfs_frame]
@[simp] theorem State.setIfs_intcon2 (n : Nat) (s : State) : (s.setIfs n).intcon2 = s.intcon2 := by rw [State.setIfs_frame]
@[simp] theorem State.setIfs_intcon3 (n : Nat) (s : State) : (s.setIfs n).intcon3 = s.intcon3 := by rw [State.setIfs_frame]
@[simp] theorem State.setIfs_intcon4 (n : Nat) (s : State) : (s.setIfs n).intcon4 = s.intcon4 := by rw [State.setIfs_frame]
@[simp] theorem State.setIfs_iec (n : Nat) (s : State) : (s.setIfs n).iec = s.iec := by rw [State.setIfs_frame]
@[simp] theorem State.setIfs_ipc (n : Nat) (s : State) : (s.setIfs n).ipc = s.ipc := by rw [State.setIfs_frame]
@[simp] theorem State.setIfs_inttreg (n : Nat) (s : State) : (s.setIfs n).inttreg = s.inttreg := by rw [State.setIfs_frame]
@[simp] theorem State.setIfs_disicnt (n : Nat) (s : State) : (s.setIfs n).disicnt = s.disicnt := by rw [State.setIfs_frame]
@[simp] theorem State.setIfs_splim (n : Nat) (s : State) : (s.setIfs n).splim = s.splim := by rw [State.setIfs_frame]
@[simp] theorem State.setIfs_rcon (n : Nat) (s : State) : (s.setIfs n).rcon = s.rcon := by rw [State.setIfs_frame]
@[simp] theorem State.setIfs_osccon (n : Nat) (s : State) : (s.setIfs n).osccon = s.osccon := by rw [State.setIfs_frame]
@[simp] theorem State.setIfs_dsrpag (n : Nat) (s : State) : (s.setIfs n).dsrpag = s.dsrpag := by rw [State.setIfs_frame]
@[simp] theorem State.setIfs_dswpag (n : Nat) (s : State) : (s.setIfs n).dswpag = s.dswpag := by rw [State.setIfs_frame]
@[simp] theorem State.setIfs_accA (n : Nat) (s : State) : (s.setIfs n).accA = s.accA := by rw [State.setIfs_frame]
@[simp] theorem State.setIfs_accB (n : Nat) (s : State) : (s.setIfs n).accB = s.accB := by rw [State.setIfs_frame]
@[simp] theorem State.setIfs_doStack (n : Nat) (s : State) : (s.setIfs n).doStack = s.doStack := by rw [State.setIfs_frame]
@[simp] theorem State.setIfs_ram (n : Nat) (s : State) : (s.setIfs n).ram = s.ram := by rw [State.setIfs_frame]
@[simp] theorem State.setIfs_prog (n : Nat) (s : State) : (s.setIfs n).prog = s.prog := by rw [State.setIfs_frame]
@[simp] theorem State.setIfs_dev (n : Nat) (s : State) : (s.setIfs n).dev = s.dev := by rw [State.setIfs_frame]
@[simp] theorem State.setIfs_splimWritten (n : Nat) (s : State) : (s.setIfs n).splimWritten = s.splimWritten := by rw [State.setIfs_frame]
@[simp] theorem State.setIfs_activeCtx (n : Nat) (s : State) : (s.setIfs n).activeCtx = s.activeCtx := by rw [State.setIfs_frame]
@[simp] theorem State.setIfs_ctxStack (n : Nat) (s : State) : (s.setIfs n).ctxStack = s.ctxStack := by rw [State.setIfs_frame]
@[simp] theorem State.setIfs_gieLag (n : Nat) (s : State) : (s.setIfs n).gieLag = s.gieLag := by rw [State.setIfs_frame]
@[simp] theorem State.setIfs_skid (n : Nat) (s : State) : (s.setIfs n).skid = s.skid := by rw [State.setIfs_frame]
@[simp] theorem State.setIfs_skidBound (n : Nat) (s : State) : (s.setIfs n).skidBound = s.skidBound := by rw [State.setIfs_frame]
@[simp] theorem State.setIfs_mode (n : Nat) (s : State) : (s.setIfs n).mode = s.mode := by rw [State.setIfs_frame]
@[simp] theorem State.setIfs_pins (n : Nat) (s : State) : (s.setIfs n).pins = s.pins := by rw [State.setIfs_frame]
@[simp] theorem State.setIfs_symbolic (n : Nat) (s : State) : (s.setIfs n).symbolic = s.symbolic := by rw [State.setIfs_frame]
@[simp] theorem State.setIfs_env (n : Nat) (s : State) : (s.setIfs n).env = s.env := by rw [State.setIfs_frame]
@[simp] theorem State.setIfs_ramSeed (n : Nat) (s : State) : (s.setIfs n).ramSeed = s.ramSeed := by rw [State.setIfs_frame]
@[simp] theorem State.setIfs_free (n : Nat) (s : State) : (s.setIfs n).free = s.free := by rw [State.setIfs_frame]
@[simp] theorem State.setIfs_log (n : Nat) (s : State) : (s.setIfs n).log = s.log := by rw [State.setIfs_frame]

/-! ### setAcc -/

@[simp] theorem State.setAcc_pc (acc : AccSel) (v : Acc) (s : State) : (s.setAcc acc v).pc = s.pc := by rw [State.setAcc_frame]
@[simp] theorem State.setAcc_w (acc : AccSel) (v : Acc) (s : State) : (s.setAcc acc v).w = s.w := by rw [State.setAcc_frame]
@[simp] theorem State.setAcc_alt1 (acc : AccSel) (v : Acc) (s : State) : (s.setAcc acc v).alt1 = s.alt1 := by rw [State.setAcc_frame]
@[simp] theorem State.setAcc_alt2 (acc : AccSel) (v : Acc) (s : State) : (s.setAcc acc v).alt2 = s.alt2 := by rw [State.setAcc_frame]
@[simp] theorem State.setAcc_w15 (acc : AccSel) (v : Acc) (s : State) : (s.setAcc acc v).w15 = s.w15 := by rw [State.setAcc_frame]
@[simp] theorem State.setAcc_sr (acc : AccSel) (v : Acc) (s : State) : (s.setAcc acc v).sr = s.sr := by rw [State.setAcc_frame]
@[simp] theorem State.setAcc_corcon (acc : AccSel) (v : Acc) (s : State) : (s.setAcc acc v).corcon = s.corcon := by rw [State.setAcc_frame]
@[simp] theorem State.setAcc_intcon1 (acc : AccSel) (v : Acc) (s : State) : (s.setAcc acc v).intcon1 = s.intcon1 := by rw [State.setAcc_frame]
@[simp] theorem State.setAcc_intcon2 (acc : AccSel) (v : Acc) (s : State) : (s.setAcc acc v).intcon2 = s.intcon2 := by rw [State.setAcc_frame]
@[simp] theorem State.setAcc_intcon3 (acc : AccSel) (v : Acc) (s : State) : (s.setAcc acc v).intcon3 = s.intcon3 := by rw [State.setAcc_frame]
@[simp] theorem State.setAcc_intcon4 (acc : AccSel) (v : Acc) (s : State) : (s.setAcc acc v).intcon4 = s.intcon4 := by rw [State.setAcc_frame]
@[simp] theorem State.setAcc_ifs (acc : AccSel) (v : Acc) (s : State) : (s.setAcc acc v).ifs = s.ifs := by rw [State.setAcc_frame]
@[simp] theorem State.setAcc_iec (acc : AccSel) (v : Acc) (s : State) : (s.setAcc acc v).iec = s.iec := by rw [State.setAcc_frame]
@[simp] theorem State.setAcc_ipc (acc : AccSel) (v : Acc) (s : State) : (s.setAcc acc v).ipc = s.ipc := by rw [State.setAcc_frame]
@[simp] theorem State.setAcc_inttreg (acc : AccSel) (v : Acc) (s : State) : (s.setAcc acc v).inttreg = s.inttreg := by rw [State.setAcc_frame]
@[simp] theorem State.setAcc_disicnt (acc : AccSel) (v : Acc) (s : State) : (s.setAcc acc v).disicnt = s.disicnt := by rw [State.setAcc_frame]
@[simp] theorem State.setAcc_splim (acc : AccSel) (v : Acc) (s : State) : (s.setAcc acc v).splim = s.splim := by rw [State.setAcc_frame]
@[simp] theorem State.setAcc_rcon (acc : AccSel) (v : Acc) (s : State) : (s.setAcc acc v).rcon = s.rcon := by rw [State.setAcc_frame]
@[simp] theorem State.setAcc_osccon (acc : AccSel) (v : Acc) (s : State) : (s.setAcc acc v).osccon = s.osccon := by rw [State.setAcc_frame]
@[simp] theorem State.setAcc_dsrpag (acc : AccSel) (v : Acc) (s : State) : (s.setAcc acc v).dsrpag = s.dsrpag := by rw [State.setAcc_frame]
@[simp] theorem State.setAcc_dswpag (acc : AccSel) (v : Acc) (s : State) : (s.setAcc acc v).dswpag = s.dswpag := by rw [State.setAcc_frame]
@[simp] theorem State.setAcc_doStack (acc : AccSel) (v : Acc) (s : State) : (s.setAcc acc v).doStack = s.doStack := by rw [State.setAcc_frame]
@[simp] theorem State.setAcc_ram (acc : AccSel) (v : Acc) (s : State) : (s.setAcc acc v).ram = s.ram := by rw [State.setAcc_frame]
@[simp] theorem State.setAcc_prog (acc : AccSel) (v : Acc) (s : State) : (s.setAcc acc v).prog = s.prog := by rw [State.setAcc_frame]
@[simp] theorem State.setAcc_dev (acc : AccSel) (v : Acc) (s : State) : (s.setAcc acc v).dev = s.dev := by rw [State.setAcc_frame]
@[simp] theorem State.setAcc_splimWritten (acc : AccSel) (v : Acc) (s : State) : (s.setAcc acc v).splimWritten = s.splimWritten := by rw [State.setAcc_frame]
@[simp] theorem State.setAcc_activeCtx (acc : AccSel) (v : Acc) (s : State) : (s.setAcc acc v).activeCtx = s.activeCtx := by rw [State.setAcc_frame]
@[simp] theorem State.setAcc_ctxStack (acc : AccSel) (v : Acc) (s : State) : (s.setAcc acc v).ctxStack = s.ctxStack := by rw [State.setAcc_frame]
@[simp] theorem State.setAcc_gieLag (acc : AccSel) (v : Acc) (s : State) : (s.setAcc acc v).gieLag = s.gieLag := by rw [State.setAcc_frame]
@[simp] theorem State.setAcc_skid (acc : AccSel) (v : Acc) (s : State) : (s.setAcc acc v).skid = s.skid := by rw [State.setAcc_frame]
@[simp] theorem State.setAcc_skidBound (acc : AccSel) (v : Acc) (s : State) : (s.setAcc acc v).skidBound = s.skidBound := by rw [State.setAcc_frame]
@[simp] theorem State.setAcc_mode (acc : AccSel) (v : Acc) (s : State) : (s.setAcc acc v).mode = s.mode := by rw [State.setAcc_frame]
@[simp] theorem State.setAcc_pins (acc : AccSel) (v : Acc) (s : State) : (s.setAcc acc v).pins = s.pins := by rw [State.setAcc_frame]
@[simp] theorem State.setAcc_symbolic (acc : AccSel) (v : Acc) (s : State) : (s.setAcc acc v).symbolic = s.symbolic := by rw [State.setAcc_frame]
@[simp] theorem State.setAcc_env (acc : AccSel) (v : Acc) (s : State) : (s.setAcc acc v).env = s.env := by rw [State.setAcc_frame]
@[simp] theorem State.setAcc_ramSeed (acc : AccSel) (v : Acc) (s : State) : (s.setAcc acc v).ramSeed = s.ramSeed := by rw [State.setAcc_frame]
@[simp] theorem State.setAcc_free (acc : AccSel) (v : Acc) (s : State) : (s.setAcc acc v).free = s.free := by rw [State.setAcc_frame]
@[simp] theorem State.setAcc_log (acc : AccSel) (v : Acc) (s : State) : (s.setAcc acc v).log = s.log := by rw [State.setAcc_frame]

/-! ### setRamWord -/

@[simp] theorem State.setRamWord_pc (a v : Word) (s : State) : (s.setRamWord a v).pc = s.pc := rfl
@[simp] theorem State.setRamWord_w (a v : Word) (s : State) : (s.setRamWord a v).w = s.w := rfl
@[simp] theorem State.setRamWord_alt1 (a v : Word) (s : State) : (s.setRamWord a v).alt1 = s.alt1 := rfl
@[simp] theorem State.setRamWord_alt2 (a v : Word) (s : State) : (s.setRamWord a v).alt2 = s.alt2 := rfl
@[simp] theorem State.setRamWord_w15 (a v : Word) (s : State) : (s.setRamWord a v).w15 = s.w15 := rfl
@[simp] theorem State.setRamWord_sr (a v : Word) (s : State) : (s.setRamWord a v).sr = s.sr := rfl
@[simp] theorem State.setRamWord_corcon (a v : Word) (s : State) : (s.setRamWord a v).corcon = s.corcon := rfl
@[simp] theorem State.setRamWord_intcon1 (a v : Word) (s : State) : (s.setRamWord a v).intcon1 = s.intcon1 := rfl
@[simp] theorem State.setRamWord_intcon2 (a v : Word) (s : State) : (s.setRamWord a v).intcon2 = s.intcon2 := rfl
@[simp] theorem State.setRamWord_intcon3 (a v : Word) (s : State) : (s.setRamWord a v).intcon3 = s.intcon3 := rfl
@[simp] theorem State.setRamWord_intcon4 (a v : Word) (s : State) : (s.setRamWord a v).intcon4 = s.intcon4 := rfl
@[simp] theorem State.setRamWord_ifs (a v : Word) (s : State) : (s.setRamWord a v).ifs = s.ifs := rfl
@[simp] theorem State.setRamWord_iec (a v : Word) (s : State) : (s.setRamWord a v).iec = s.iec := rfl
@[simp] theorem State.setRamWord_ipc (a v : Word) (s : State) : (s.setRamWord a v).ipc = s.ipc := rfl
@[simp] theorem State.setRamWord_inttreg (a v : Word) (s : State) : (s.setRamWord a v).inttreg = s.inttreg := rfl
@[simp] theorem State.setRamWord_disicnt (a v : Word) (s : State) : (s.setRamWord a v).disicnt = s.disicnt := rfl
@[simp] theorem State.setRamWord_splim (a v : Word) (s : State) : (s.setRamWord a v).splim = s.splim := rfl
@[simp] theorem State.setRamWord_rcon (a v : Word) (s : State) : (s.setRamWord a v).rcon = s.rcon := rfl
@[simp] theorem State.setRamWord_osccon (a v : Word) (s : State) : (s.setRamWord a v).osccon = s.osccon := rfl
@[simp] theorem State.setRamWord_dsrpag (a v : Word) (s : State) : (s.setRamWord a v).dsrpag = s.dsrpag := rfl
@[simp] theorem State.setRamWord_dswpag (a v : Word) (s : State) : (s.setRamWord a v).dswpag = s.dswpag := rfl
@[simp] theorem State.setRamWord_accA (a v : Word) (s : State) : (s.setRamWord a v).accA = s.accA := rfl
@[simp] theorem State.setRamWord_accB (a v : Word) (s : State) : (s.setRamWord a v).accB = s.accB := rfl
@[simp] theorem State.setRamWord_doStack (a v : Word) (s : State) : (s.setRamWord a v).doStack = s.doStack := rfl
@[simp] theorem State.setRamWord_prog (a v : Word) (s : State) : (s.setRamWord a v).prog = s.prog := rfl
@[simp] theorem State.setRamWord_dev (a v : Word) (s : State) : (s.setRamWord a v).dev = s.dev := rfl
@[simp] theorem State.setRamWord_splimWritten (a v : Word) (s : State) : (s.setRamWord a v).splimWritten = s.splimWritten := rfl
@[simp] theorem State.setRamWord_activeCtx (a v : Word) (s : State) : (s.setRamWord a v).activeCtx = s.activeCtx := rfl
@[simp] theorem State.setRamWord_ctxStack (a v : Word) (s : State) : (s.setRamWord a v).ctxStack = s.ctxStack := rfl
@[simp] theorem State.setRamWord_gieLag (a v : Word) (s : State) : (s.setRamWord a v).gieLag = s.gieLag := rfl
@[simp] theorem State.setRamWord_skid (a v : Word) (s : State) : (s.setRamWord a v).skid = s.skid := rfl
@[simp] theorem State.setRamWord_skidBound (a v : Word) (s : State) : (s.setRamWord a v).skidBound = s.skidBound := rfl
@[simp] theorem State.setRamWord_mode (a v : Word) (s : State) : (s.setRamWord a v).mode = s.mode := rfl
@[simp] theorem State.setRamWord_pins (a v : Word) (s : State) : (s.setRamWord a v).pins = s.pins := rfl
@[simp] theorem State.setRamWord_symbolic (a v : Word) (s : State) : (s.setRamWord a v).symbolic = s.symbolic := rfl
@[simp] theorem State.setRamWord_env (a v : Word) (s : State) : (s.setRamWord a v).env = s.env := rfl
@[simp] theorem State.setRamWord_ramSeed (a v : Word) (s : State) : (s.setRamWord a v).ramSeed = s.ramSeed := rfl
@[simp] theorem State.setRamWord_free (a v : Word) (s : State) : (s.setRamWord a v).free = s.free := rfl
@[simp] theorem State.setRamWord_log (a v : Word) (s : State) : (s.setRamWord a v).log = s.log := rfl

/-! ### pop16 -/

@[simp] theorem State.pop16_pc (s : State) : (s.pop16).pc = s.pc := by rw [State.pop16_frame]
@[simp] theorem State.pop16_w (s : State) : (s.pop16).w = s.w := by rw [State.pop16_frame]
@[simp] theorem State.pop16_alt1 (s : State) : (s.pop16).alt1 = s.alt1 := by rw [State.pop16_frame]
@[simp] theorem State.pop16_alt2 (s : State) : (s.pop16).alt2 = s.alt2 := by rw [State.pop16_frame]
@[simp] theorem State.pop16_sr (s : State) : (s.pop16).sr = s.sr := by rw [State.pop16_frame]
@[simp] theorem State.pop16_corcon (s : State) : (s.pop16).corcon = s.corcon := by rw [State.pop16_frame]
@[simp] theorem State.pop16_intcon2 (s : State) : (s.pop16).intcon2 = s.intcon2 := by rw [State.pop16_frame]
@[simp] theorem State.pop16_intcon3 (s : State) : (s.pop16).intcon3 = s.intcon3 := by rw [State.pop16_frame]
@[simp] theorem State.pop16_ifs (s : State) : (s.pop16).ifs = s.ifs := by rw [State.pop16_frame]
@[simp] theorem State.pop16_iec (s : State) : (s.pop16).iec = s.iec := by rw [State.pop16_frame]
@[simp] theorem State.pop16_ipc (s : State) : (s.pop16).ipc = s.ipc := by rw [State.pop16_frame]
@[simp] theorem State.pop16_inttreg (s : State) : (s.pop16).inttreg = s.inttreg := by rw [State.pop16_frame]
@[simp] theorem State.pop16_disicnt (s : State) : (s.pop16).disicnt = s.disicnt := by rw [State.pop16_frame]
@[simp] theorem State.pop16_splim (s : State) : (s.pop16).splim = s.splim := by rw [State.pop16_frame]
@[simp] theorem State.pop16_rcon (s : State) : (s.pop16).rcon = s.rcon := by rw [State.pop16_frame]
@[simp] theorem State.pop16_dsrpag (s : State) : (s.pop16).dsrpag = s.dsrpag := by rw [State.pop16_frame]
@[simp] theorem State.pop16_dswpag (s : State) : (s.pop16).dswpag = s.dswpag := by rw [State.pop16_frame]
@[simp] theorem State.pop16_accA (s : State) : (s.pop16).accA = s.accA := by rw [State.pop16_frame]
@[simp] theorem State.pop16_accB (s : State) : (s.pop16).accB = s.accB := by rw [State.pop16_frame]
@[simp] theorem State.pop16_doStack (s : State) : (s.pop16).doStack = s.doStack := by rw [State.pop16_frame]
@[simp] theorem State.pop16_ram (s : State) : (s.pop16).ram = s.ram := by rw [State.pop16_frame]
@[simp] theorem State.pop16_prog (s : State) : (s.pop16).prog = s.prog := by rw [State.pop16_frame]
@[simp] theorem State.pop16_dev (s : State) : (s.pop16).dev = s.dev := by rw [State.pop16_frame]
@[simp] theorem State.pop16_splimWritten (s : State) : (s.pop16).splimWritten = s.splimWritten := by rw [State.pop16_frame]
@[simp] theorem State.pop16_activeCtx (s : State) : (s.pop16).activeCtx = s.activeCtx := by rw [State.pop16_frame]
@[simp] theorem State.pop16_ctxStack (s : State) : (s.pop16).ctxStack = s.ctxStack := by rw [State.pop16_frame]
@[simp] theorem State.pop16_gieLag (s : State) : (s.pop16).gieLag = s.gieLag := by rw [State.pop16_frame]
@[simp] theorem State.pop16_skid (s : State) : (s.pop16).skid = s.skid := by rw [State.pop16_frame]
@[simp] theorem State.pop16_skidBound (s : State) : (s.pop16).skidBound = s.skidBound := by rw [State.pop16_frame]
@[simp] theorem State.pop16_mode (s : State) : (s.pop16).mode = s.mode := by rw [State.pop16_frame]
@[simp] theorem State.pop16_pins (s : State) : (s.pop16).pins = s.pins := by rw [State.pop16_frame]
@[simp] theorem State.pop16_symbolic (s : State) : (s.pop16).symbolic = s.symbolic := by rw [State.pop16_frame]
@[simp] theorem State.pop16_env (s : State) : (s.pop16).env = s.env := by rw [State.pop16_frame]
@[simp] theorem State.pop16_ramSeed (s : State) : (s.pop16).ramSeed = s.ramSeed := by rw [State.pop16_frame]

/-! ### restoreCtx -/

@[simp] theorem State.restoreCtx_pc (s : State) : (s.restoreCtx).pc = s.pc := by rw [State.restoreCtx_frame]
@[simp] theorem State.restoreCtx_w (s : State) : (s.restoreCtx).w = s.w := by rw [State.restoreCtx_frame]
@[simp] theorem State.restoreCtx_alt1 (s : State) : (s.restoreCtx).alt1 = s.alt1 := by rw [State.restoreCtx_frame]
@[simp] theorem State.restoreCtx_alt2 (s : State) : (s.restoreCtx).alt2 = s.alt2 := by rw [State.restoreCtx_frame]
@[simp] theorem State.restoreCtx_w15 (s : State) : (s.restoreCtx).w15 = s.w15 := by rw [State.restoreCtx_frame]
@[simp] theorem State.restoreCtx_sr (s : State) : (s.restoreCtx).sr = s.sr := by rw [State.restoreCtx_frame]
@[simp] theorem State.restoreCtx_corcon (s : State) : (s.restoreCtx).corcon = s.corcon := by rw [State.restoreCtx_frame]
@[simp] theorem State.restoreCtx_intcon1 (s : State) : (s.restoreCtx).intcon1 = s.intcon1 := by rw [State.restoreCtx_frame]
@[simp] theorem State.restoreCtx_intcon2 (s : State) : (s.restoreCtx).intcon2 = s.intcon2 := by rw [State.restoreCtx_frame]
@[simp] theorem State.restoreCtx_intcon3 (s : State) : (s.restoreCtx).intcon3 = s.intcon3 := by rw [State.restoreCtx_frame]
@[simp] theorem State.restoreCtx_intcon4 (s : State) : (s.restoreCtx).intcon4 = s.intcon4 := by rw [State.restoreCtx_frame]
@[simp] theorem State.restoreCtx_ifs (s : State) : (s.restoreCtx).ifs = s.ifs := by rw [State.restoreCtx_frame]
@[simp] theorem State.restoreCtx_iec (s : State) : (s.restoreCtx).iec = s.iec := by rw [State.restoreCtx_frame]
@[simp] theorem State.restoreCtx_ipc (s : State) : (s.restoreCtx).ipc = s.ipc := by rw [State.restoreCtx_frame]
@[simp] theorem State.restoreCtx_inttreg (s : State) : (s.restoreCtx).inttreg = s.inttreg := by rw [State.restoreCtx_frame]
@[simp] theorem State.restoreCtx_disicnt (s : State) : (s.restoreCtx).disicnt = s.disicnt := by rw [State.restoreCtx_frame]
@[simp] theorem State.restoreCtx_splim (s : State) : (s.restoreCtx).splim = s.splim := by rw [State.restoreCtx_frame]
@[simp] theorem State.restoreCtx_rcon (s : State) : (s.restoreCtx).rcon = s.rcon := by rw [State.restoreCtx_frame]
@[simp] theorem State.restoreCtx_osccon (s : State) : (s.restoreCtx).osccon = s.osccon := by rw [State.restoreCtx_frame]
@[simp] theorem State.restoreCtx_dsrpag (s : State) : (s.restoreCtx).dsrpag = s.dsrpag := by rw [State.restoreCtx_frame]
@[simp] theorem State.restoreCtx_dswpag (s : State) : (s.restoreCtx).dswpag = s.dswpag := by rw [State.restoreCtx_frame]
@[simp] theorem State.restoreCtx_accA (s : State) : (s.restoreCtx).accA = s.accA := by rw [State.restoreCtx_frame]
@[simp] theorem State.restoreCtx_accB (s : State) : (s.restoreCtx).accB = s.accB := by rw [State.restoreCtx_frame]
@[simp] theorem State.restoreCtx_doStack (s : State) : (s.restoreCtx).doStack = s.doStack := by rw [State.restoreCtx_frame]
@[simp] theorem State.restoreCtx_ram (s : State) : (s.restoreCtx).ram = s.ram := by rw [State.restoreCtx_frame]
@[simp] theorem State.restoreCtx_prog (s : State) : (s.restoreCtx).prog = s.prog := by rw [State.restoreCtx_frame]
@[simp] theorem State.restoreCtx_dev (s : State) : (s.restoreCtx).dev = s.dev := by rw [State.restoreCtx_frame]
@[simp] theorem State.restoreCtx_splimWritten (s : State) : (s.restoreCtx).splimWritten = s.splimWritten := by rw [State.restoreCtx_frame]
@[simp] theorem State.restoreCtx_gieLag (s : State) : (s.restoreCtx).gieLag = s.gieLag := by rw [State.restoreCtx_frame]
@[simp] theorem State.restoreCtx_skid (s : State) : (s.restoreCtx).skid = s.skid := by rw [State.restoreCtx_frame]
@[simp] theorem State.restoreCtx_skidBound (s : State) : (s.restoreCtx).skidBound = s.skidBound := by rw [State.restoreCtx_frame]
@[simp] theorem State.restoreCtx_mode (s : State) : (s.restoreCtx).mode = s.mode := by rw [State.restoreCtx_frame]
@[simp] theorem State.restoreCtx_pins (s : State) : (s.restoreCtx).pins = s.pins := by rw [State.restoreCtx_frame]
@[simp] theorem State.restoreCtx_symbolic (s : State) : (s.restoreCtx).symbolic = s.symbolic := by rw [State.restoreCtx_frame]
@[simp] theorem State.restoreCtx_env (s : State) : (s.restoreCtx).env = s.env := by rw [State.restoreCtx_frame]
@[simp] theorem State.restoreCtx_ramSeed (s : State) : (s.restoreCtx).ramSeed = s.ramSeed := by rw [State.restoreCtx_frame]
@[simp] theorem State.restoreCtx_free (s : State) : (s.restoreCtx).free = s.free := by rw [State.restoreCtx_frame]
@[simp] theorem State.restoreCtx_log (s : State) : (s.restoreCtx).log = s.log := by rw [State.restoreCtx_frame]

/-! ### enterPriority -/

@[simp] theorem State.enterPriority_pc (e : Exc) (level : Nat) (s : State) : (s.enterPriority e level).pc = s.pc := by rw [State.enterPriority_frame]
@[simp] theorem State.enterPriority_w (e : Exc) (level : Nat) (s : State) : (s.enterPriority e level).w = s.w := by rw [State.enterPriority_frame]
@[simp] theorem State.enterPriority_alt1 (e : Exc) (level : Nat) (s : State) : (s.enterPriority e level).alt1 = s.alt1 := by rw [State.enterPriority_frame]
@[simp] theorem State.enterPriority_alt2 (e : Exc) (level : Nat) (s : State) : (s.enterPriority e level).alt2 = s.alt2 := by rw [State.enterPriority_frame]
@[simp] theorem State.enterPriority_w15 (e : Exc) (level : Nat) (s : State) : (s.enterPriority e level).w15 = s.w15 := by rw [State.enterPriority_frame]
@[simp] theorem State.enterPriority_intcon1 (e : Exc) (level : Nat) (s : State) : (s.enterPriority e level).intcon1 = s.intcon1 := by rw [State.enterPriority_frame]
@[simp] theorem State.enterPriority_intcon2 (e : Exc) (level : Nat) (s : State) : (s.enterPriority e level).intcon2 = s.intcon2 := by rw [State.enterPriority_frame]
@[simp] theorem State.enterPriority_intcon3 (e : Exc) (level : Nat) (s : State) : (s.enterPriority e level).intcon3 = s.intcon3 := by rw [State.enterPriority_frame]
@[simp] theorem State.enterPriority_intcon4 (e : Exc) (level : Nat) (s : State) : (s.enterPriority e level).intcon4 = s.intcon4 := by rw [State.enterPriority_frame]
@[simp] theorem State.enterPriority_ifs (e : Exc) (level : Nat) (s : State) : (s.enterPriority e level).ifs = s.ifs := by rw [State.enterPriority_frame]
@[simp] theorem State.enterPriority_iec (e : Exc) (level : Nat) (s : State) : (s.enterPriority e level).iec = s.iec := by rw [State.enterPriority_frame]
@[simp] theorem State.enterPriority_ipc (e : Exc) (level : Nat) (s : State) : (s.enterPriority e level).ipc = s.ipc := by rw [State.enterPriority_frame]
@[simp] theorem State.enterPriority_inttreg (e : Exc) (level : Nat) (s : State) : (s.enterPriority e level).inttreg = s.inttreg := by rw [State.enterPriority_frame]
@[simp] theorem State.enterPriority_disicnt (e : Exc) (level : Nat) (s : State) : (s.enterPriority e level).disicnt = s.disicnt := by rw [State.enterPriority_frame]
@[simp] theorem State.enterPriority_splim (e : Exc) (level : Nat) (s : State) : (s.enterPriority e level).splim = s.splim := by rw [State.enterPriority_frame]
@[simp] theorem State.enterPriority_rcon (e : Exc) (level : Nat) (s : State) : (s.enterPriority e level).rcon = s.rcon := by rw [State.enterPriority_frame]
@[simp] theorem State.enterPriority_osccon (e : Exc) (level : Nat) (s : State) : (s.enterPriority e level).osccon = s.osccon := by rw [State.enterPriority_frame]
@[simp] theorem State.enterPriority_dsrpag (e : Exc) (level : Nat) (s : State) : (s.enterPriority e level).dsrpag = s.dsrpag := by rw [State.enterPriority_frame]
@[simp] theorem State.enterPriority_dswpag (e : Exc) (level : Nat) (s : State) : (s.enterPriority e level).dswpag = s.dswpag := by rw [State.enterPriority_frame]
@[simp] theorem State.enterPriority_accA (e : Exc) (level : Nat) (s : State) : (s.enterPriority e level).accA = s.accA := by rw [State.enterPriority_frame]
@[simp] theorem State.enterPriority_accB (e : Exc) (level : Nat) (s : State) : (s.enterPriority e level).accB = s.accB := by rw [State.enterPriority_frame]
@[simp] theorem State.enterPriority_doStack (e : Exc) (level : Nat) (s : State) : (s.enterPriority e level).doStack = s.doStack := by rw [State.enterPriority_frame]
@[simp] theorem State.enterPriority_ram (e : Exc) (level : Nat) (s : State) : (s.enterPriority e level).ram = s.ram := by rw [State.enterPriority_frame]
@[simp] theorem State.enterPriority_prog (e : Exc) (level : Nat) (s : State) : (s.enterPriority e level).prog = s.prog := by rw [State.enterPriority_frame]
@[simp] theorem State.enterPriority_dev (e : Exc) (level : Nat) (s : State) : (s.enterPriority e level).dev = s.dev := by rw [State.enterPriority_frame]
@[simp] theorem State.enterPriority_splimWritten (e : Exc) (level : Nat) (s : State) : (s.enterPriority e level).splimWritten = s.splimWritten := by rw [State.enterPriority_frame]
@[simp] theorem State.enterPriority_activeCtx (e : Exc) (level : Nat) (s : State) : (s.enterPriority e level).activeCtx = s.activeCtx := by rw [State.enterPriority_frame]
@[simp] theorem State.enterPriority_ctxStack (e : Exc) (level : Nat) (s : State) : (s.enterPriority e level).ctxStack = s.ctxStack := by rw [State.enterPriority_frame]
@[simp] theorem State.enterPriority_gieLag (e : Exc) (level : Nat) (s : State) : (s.enterPriority e level).gieLag = s.gieLag := by rw [State.enterPriority_frame]
@[simp] theorem State.enterPriority_skid (e : Exc) (level : Nat) (s : State) : (s.enterPriority e level).skid = s.skid := by rw [State.enterPriority_frame]
@[simp] theorem State.enterPriority_skidBound (e : Exc) (level : Nat) (s : State) : (s.enterPriority e level).skidBound = s.skidBound := by rw [State.enterPriority_frame]
@[simp] theorem State.enterPriority_mode (e : Exc) (level : Nat) (s : State) : (s.enterPriority e level).mode = s.mode := by rw [State.enterPriority_frame]
@[simp] theorem State.enterPriority_pins (e : Exc) (level : Nat) (s : State) : (s.enterPriority e level).pins = s.pins := by rw [State.enterPriority_frame]
@[simp] theorem State.enterPriority_symbolic (e : Exc) (level : Nat) (s : State) : (s.enterPriority e level).symbolic = s.symbolic := by rw [State.enterPriority_frame]
@[simp] theorem State.enterPriority_env (e : Exc) (level : Nat) (s : State) : (s.enterPriority e level).env = s.env := by rw [State.enterPriority_frame]
@[simp] theorem State.enterPriority_ramSeed (e : Exc) (level : Nat) (s : State) : (s.enterPriority e level).ramSeed = s.ramSeed := by rw [State.enterPriority_frame]
@[simp] theorem State.enterPriority_free (e : Exc) (level : Nat) (s : State) : (s.enterPriority e level).free = s.free := by rw [State.enterPriority_frame]
@[simp] theorem State.enterPriority_log (e : Exc) (level : Nat) (s : State) : (s.enterPriority e level).log = s.log := by rw [State.enterPriority_frame]

/-! ### latch -/

@[simp] theorem State.latch_pc (e : Exc) (level : Nat) (s : State) : (s.latch e level).pc = s.pc := by rw [State.latch_frame]
@[simp] theorem State.latch_w (e : Exc) (level : Nat) (s : State) : (s.latch e level).w = s.w := by rw [State.latch_frame]
@[simp] theorem State.latch_alt1 (e : Exc) (level : Nat) (s : State) : (s.latch e level).alt1 = s.alt1 := by rw [State.latch_frame]
@[simp] theorem State.latch_alt2 (e : Exc) (level : Nat) (s : State) : (s.latch e level).alt2 = s.alt2 := by rw [State.latch_frame]
@[simp] theorem State.latch_w15 (e : Exc) (level : Nat) (s : State) : (s.latch e level).w15 = s.w15 := by rw [State.latch_frame]
@[simp] theorem State.latch_sr (e : Exc) (level : Nat) (s : State) : (s.latch e level).sr = s.sr := by rw [State.latch_frame]
@[simp] theorem State.latch_corcon (e : Exc) (level : Nat) (s : State) : (s.latch e level).corcon = s.corcon := by rw [State.latch_frame]
@[simp] theorem State.latch_intcon1 (e : Exc) (level : Nat) (s : State) : (s.latch e level).intcon1 = s.intcon1 := by rw [State.latch_frame]
@[simp] theorem State.latch_intcon2 (e : Exc) (level : Nat) (s : State) : (s.latch e level).intcon2 = s.intcon2 := by rw [State.latch_frame]
@[simp] theorem State.latch_intcon3 (e : Exc) (level : Nat) (s : State) : (s.latch e level).intcon3 = s.intcon3 := by rw [State.latch_frame]
@[simp] theorem State.latch_intcon4 (e : Exc) (level : Nat) (s : State) : (s.latch e level).intcon4 = s.intcon4 := by rw [State.latch_frame]
@[simp] theorem State.latch_ifs (e : Exc) (level : Nat) (s : State) : (s.latch e level).ifs = s.ifs := by rw [State.latch_frame]
@[simp] theorem State.latch_iec (e : Exc) (level : Nat) (s : State) : (s.latch e level).iec = s.iec := by rw [State.latch_frame]
@[simp] theorem State.latch_ipc (e : Exc) (level : Nat) (s : State) : (s.latch e level).ipc = s.ipc := by rw [State.latch_frame]
@[simp] theorem State.latch_disicnt (e : Exc) (level : Nat) (s : State) : (s.latch e level).disicnt = s.disicnt := by rw [State.latch_frame]
@[simp] theorem State.latch_splim (e : Exc) (level : Nat) (s : State) : (s.latch e level).splim = s.splim := by rw [State.latch_frame]
@[simp] theorem State.latch_rcon (e : Exc) (level : Nat) (s : State) : (s.latch e level).rcon = s.rcon := by rw [State.latch_frame]
@[simp] theorem State.latch_osccon (e : Exc) (level : Nat) (s : State) : (s.latch e level).osccon = s.osccon := by rw [State.latch_frame]
@[simp] theorem State.latch_dsrpag (e : Exc) (level : Nat) (s : State) : (s.latch e level).dsrpag = s.dsrpag := by rw [State.latch_frame]
@[simp] theorem State.latch_dswpag (e : Exc) (level : Nat) (s : State) : (s.latch e level).dswpag = s.dswpag := by rw [State.latch_frame]
@[simp] theorem State.latch_accA (e : Exc) (level : Nat) (s : State) : (s.latch e level).accA = s.accA := by rw [State.latch_frame]
@[simp] theorem State.latch_accB (e : Exc) (level : Nat) (s : State) : (s.latch e level).accB = s.accB := by rw [State.latch_frame]
@[simp] theorem State.latch_doStack (e : Exc) (level : Nat) (s : State) : (s.latch e level).doStack = s.doStack := by rw [State.latch_frame]
@[simp] theorem State.latch_ram (e : Exc) (level : Nat) (s : State) : (s.latch e level).ram = s.ram := by rw [State.latch_frame]
@[simp] theorem State.latch_prog (e : Exc) (level : Nat) (s : State) : (s.latch e level).prog = s.prog := by rw [State.latch_frame]
@[simp] theorem State.latch_dev (e : Exc) (level : Nat) (s : State) : (s.latch e level).dev = s.dev := by rw [State.latch_frame]
@[simp] theorem State.latch_splimWritten (e : Exc) (level : Nat) (s : State) : (s.latch e level).splimWritten = s.splimWritten := by rw [State.latch_frame]
@[simp] theorem State.latch_activeCtx (e : Exc) (level : Nat) (s : State) : (s.latch e level).activeCtx = s.activeCtx := by rw [State.latch_frame]
@[simp] theorem State.latch_ctxStack (e : Exc) (level : Nat) (s : State) : (s.latch e level).ctxStack = s.ctxStack := by rw [State.latch_frame]
@[simp] theorem State.latch_gieLag (e : Exc) (level : Nat) (s : State) : (s.latch e level).gieLag = s.gieLag := by rw [State.latch_frame]
@[simp] theorem State.latch_skid (e : Exc) (level : Nat) (s : State) : (s.latch e level).skid = s.skid := by rw [State.latch_frame]
@[simp] theorem State.latch_skidBound (e : Exc) (level : Nat) (s : State) : (s.latch e level).skidBound = s.skidBound := by rw [State.latch_frame]
@[simp] theorem State.latch_mode (e : Exc) (level : Nat) (s : State) : (s.latch e level).mode = s.mode := by rw [State.latch_frame]
@[simp] theorem State.latch_pins (e : Exc) (level : Nat) (s : State) : (s.latch e level).pins = s.pins := by rw [State.latch_frame]
@[simp] theorem State.latch_symbolic (e : Exc) (level : Nat) (s : State) : (s.latch e level).symbolic = s.symbolic := by rw [State.latch_frame]
@[simp] theorem State.latch_env (e : Exc) (level : Nat) (s : State) : (s.latch e level).env = s.env := by rw [State.latch_frame]
@[simp] theorem State.latch_ramSeed (e : Exc) (level : Nat) (s : State) : (s.latch e level).ramSeed = s.ramSeed := by rw [State.latch_frame]
@[simp] theorem State.latch_log (e : Exc) (level : Nat) (s : State) : (s.latch e level).log = s.log := by rw [State.latch_frame]

/-! ### selectCtx -/

@[simp] theorem State.selectCtx_pc (e : Exc) (level : Nat) (s : State) : (s.selectCtx e level).pc = s.pc := by rw [State.selectCtx_frame]
@[simp] theorem State.selectCtx_w (e : Exc) (level : Nat) (s : State) : (s.selectCtx e level).w = s.w := by rw [State.selectCtx_frame]
@[simp] theorem State.selectCtx_alt1 (e : Exc) (level : Nat) (s : State) : (s.selectCtx e level).alt1 = s.alt1 := by rw [State.selectCtx_frame]
@[simp] theorem State.selectCtx_alt2 (e : Exc) (level : Nat) (s : State) : (s.selectCtx e level).alt2 = s.alt2 := by rw [State.selectCtx_frame]
@[simp] theorem State.selectCtx_w15 (e : Exc) (level : Nat) (s : State) : (s.selectCtx e level).w15 = s.w15 := by rw [State.selectCtx_frame]
@[simp] theorem State.selectCtx_sr (e : Exc) (level : Nat) (s : State) : (s.selectCtx e level).sr = s.sr := by rw [State.selectCtx_frame]
@[simp] theorem State.selectCtx_corcon (e : Exc) (level : Nat) (s : State) : (s.selectCtx e level).corcon = s.corcon := by rw [State.selectCtx_frame]
@[simp] theorem State.selectCtx_intcon1 (e : Exc) (level : Nat) (s : State) : (s.selectCtx e level).intcon1 = s.intcon1 := by rw [State.selectCtx_frame]
@[simp] theorem State.selectCtx_intcon2 (e : Exc) (level : Nat) (s : State) : (s.selectCtx e level).intcon2 = s.intcon2 := by rw [State.selectCtx_frame]
@[simp] theorem State.selectCtx_intcon3 (e : Exc) (level : Nat) (s : State) : (s.selectCtx e level).intcon3 = s.intcon3 := by rw [State.selectCtx_frame]
@[simp] theorem State.selectCtx_intcon4 (e : Exc) (level : Nat) (s : State) : (s.selectCtx e level).intcon4 = s.intcon4 := by rw [State.selectCtx_frame]
@[simp] theorem State.selectCtx_ifs (e : Exc) (level : Nat) (s : State) : (s.selectCtx e level).ifs = s.ifs := by rw [State.selectCtx_frame]
@[simp] theorem State.selectCtx_iec (e : Exc) (level : Nat) (s : State) : (s.selectCtx e level).iec = s.iec := by rw [State.selectCtx_frame]
@[simp] theorem State.selectCtx_ipc (e : Exc) (level : Nat) (s : State) : (s.selectCtx e level).ipc = s.ipc := by rw [State.selectCtx_frame]
@[simp] theorem State.selectCtx_inttreg (e : Exc) (level : Nat) (s : State) : (s.selectCtx e level).inttreg = s.inttreg := by rw [State.selectCtx_frame]
@[simp] theorem State.selectCtx_disicnt (e : Exc) (level : Nat) (s : State) : (s.selectCtx e level).disicnt = s.disicnt := by rw [State.selectCtx_frame]
@[simp] theorem State.selectCtx_splim (e : Exc) (level : Nat) (s : State) : (s.selectCtx e level).splim = s.splim := by rw [State.selectCtx_frame]
@[simp] theorem State.selectCtx_rcon (e : Exc) (level : Nat) (s : State) : (s.selectCtx e level).rcon = s.rcon := by rw [State.selectCtx_frame]
@[simp] theorem State.selectCtx_osccon (e : Exc) (level : Nat) (s : State) : (s.selectCtx e level).osccon = s.osccon := by rw [State.selectCtx_frame]
@[simp] theorem State.selectCtx_dsrpag (e : Exc) (level : Nat) (s : State) : (s.selectCtx e level).dsrpag = s.dsrpag := by rw [State.selectCtx_frame]
@[simp] theorem State.selectCtx_dswpag (e : Exc) (level : Nat) (s : State) : (s.selectCtx e level).dswpag = s.dswpag := by rw [State.selectCtx_frame]
@[simp] theorem State.selectCtx_accA (e : Exc) (level : Nat) (s : State) : (s.selectCtx e level).accA = s.accA := by rw [State.selectCtx_frame]
@[simp] theorem State.selectCtx_accB (e : Exc) (level : Nat) (s : State) : (s.selectCtx e level).accB = s.accB := by rw [State.selectCtx_frame]
@[simp] theorem State.selectCtx_doStack (e : Exc) (level : Nat) (s : State) : (s.selectCtx e level).doStack = s.doStack := by rw [State.selectCtx_frame]
@[simp] theorem State.selectCtx_ram (e : Exc) (level : Nat) (s : State) : (s.selectCtx e level).ram = s.ram := by rw [State.selectCtx_frame]
@[simp] theorem State.selectCtx_prog (e : Exc) (level : Nat) (s : State) : (s.selectCtx e level).prog = s.prog := by rw [State.selectCtx_frame]
@[simp] theorem State.selectCtx_dev (e : Exc) (level : Nat) (s : State) : (s.selectCtx e level).dev = s.dev := by rw [State.selectCtx_frame]
@[simp] theorem State.selectCtx_splimWritten (e : Exc) (level : Nat) (s : State) : (s.selectCtx e level).splimWritten = s.splimWritten := by rw [State.selectCtx_frame]
@[simp] theorem State.selectCtx_gieLag (e : Exc) (level : Nat) (s : State) : (s.selectCtx e level).gieLag = s.gieLag := by rw [State.selectCtx_frame]
@[simp] theorem State.selectCtx_skid (e : Exc) (level : Nat) (s : State) : (s.selectCtx e level).skid = s.skid := by rw [State.selectCtx_frame]
@[simp] theorem State.selectCtx_skidBound (e : Exc) (level : Nat) (s : State) : (s.selectCtx e level).skidBound = s.skidBound := by rw [State.selectCtx_frame]
@[simp] theorem State.selectCtx_mode (e : Exc) (level : Nat) (s : State) : (s.selectCtx e level).mode = s.mode := by rw [State.selectCtx_frame]
@[simp] theorem State.selectCtx_pins (e : Exc) (level : Nat) (s : State) : (s.selectCtx e level).pins = s.pins := by rw [State.selectCtx_frame]
@[simp] theorem State.selectCtx_symbolic (e : Exc) (level : Nat) (s : State) : (s.selectCtx e level).symbolic = s.symbolic := by rw [State.selectCtx_frame]
@[simp] theorem State.selectCtx_env (e : Exc) (level : Nat) (s : State) : (s.selectCtx e level).env = s.env := by rw [State.selectCtx_frame]
@[simp] theorem State.selectCtx_ramSeed (e : Exc) (level : Nat) (s : State) : (s.selectCtx e level).ramSeed = s.ramSeed := by rw [State.selectCtx_frame]
@[simp] theorem State.selectCtx_free (e : Exc) (level : Nat) (s : State) : (s.selectCtx e level).free = s.free := by rw [State.selectCtx_frame]
@[simp] theorem State.selectCtx_log (e : Exc) (level : Nat) (s : State) : (s.selectCtx e level).log = s.log := by rw [State.selectCtx_frame]

/-! ### setDl -/

@[simp] theorem State.setDl_pc (v : BitVec 3) (s : State) : (s.setDl v).pc = s.pc := rfl
@[simp] theorem State.setDl_w (v : BitVec 3) (s : State) : (s.setDl v).w = s.w := rfl
@[simp] theorem State.setDl_alt1 (v : BitVec 3) (s : State) : (s.setDl v).alt1 = s.alt1 := rfl
@[simp] theorem State.setDl_alt2 (v : BitVec 3) (s : State) : (s.setDl v).alt2 = s.alt2 := rfl
@[simp] theorem State.setDl_w15 (v : BitVec 3) (s : State) : (s.setDl v).w15 = s.w15 := rfl
@[simp] theorem State.setDl_sr (v : BitVec 3) (s : State) : (s.setDl v).sr = s.sr := rfl
@[simp] theorem State.setDl_intcon1 (v : BitVec 3) (s : State) : (s.setDl v).intcon1 = s.intcon1 := rfl
@[simp] theorem State.setDl_intcon2 (v : BitVec 3) (s : State) : (s.setDl v).intcon2 = s.intcon2 := rfl
@[simp] theorem State.setDl_intcon3 (v : BitVec 3) (s : State) : (s.setDl v).intcon3 = s.intcon3 := rfl
@[simp] theorem State.setDl_intcon4 (v : BitVec 3) (s : State) : (s.setDl v).intcon4 = s.intcon4 := rfl
@[simp] theorem State.setDl_ifs (v : BitVec 3) (s : State) : (s.setDl v).ifs = s.ifs := rfl
@[simp] theorem State.setDl_iec (v : BitVec 3) (s : State) : (s.setDl v).iec = s.iec := rfl
@[simp] theorem State.setDl_ipc (v : BitVec 3) (s : State) : (s.setDl v).ipc = s.ipc := rfl
@[simp] theorem State.setDl_inttreg (v : BitVec 3) (s : State) : (s.setDl v).inttreg = s.inttreg := rfl
@[simp] theorem State.setDl_disicnt (v : BitVec 3) (s : State) : (s.setDl v).disicnt = s.disicnt := rfl
@[simp] theorem State.setDl_splim (v : BitVec 3) (s : State) : (s.setDl v).splim = s.splim := rfl
@[simp] theorem State.setDl_rcon (v : BitVec 3) (s : State) : (s.setDl v).rcon = s.rcon := rfl
@[simp] theorem State.setDl_osccon (v : BitVec 3) (s : State) : (s.setDl v).osccon = s.osccon := rfl
@[simp] theorem State.setDl_dsrpag (v : BitVec 3) (s : State) : (s.setDl v).dsrpag = s.dsrpag := rfl
@[simp] theorem State.setDl_dswpag (v : BitVec 3) (s : State) : (s.setDl v).dswpag = s.dswpag := rfl
@[simp] theorem State.setDl_accA (v : BitVec 3) (s : State) : (s.setDl v).accA = s.accA := rfl
@[simp] theorem State.setDl_accB (v : BitVec 3) (s : State) : (s.setDl v).accB = s.accB := rfl
@[simp] theorem State.setDl_doStack (v : BitVec 3) (s : State) : (s.setDl v).doStack = s.doStack := rfl
@[simp] theorem State.setDl_ram (v : BitVec 3) (s : State) : (s.setDl v).ram = s.ram := rfl
@[simp] theorem State.setDl_prog (v : BitVec 3) (s : State) : (s.setDl v).prog = s.prog := rfl
@[simp] theorem State.setDl_dev (v : BitVec 3) (s : State) : (s.setDl v).dev = s.dev := rfl
@[simp] theorem State.setDl_splimWritten (v : BitVec 3) (s : State) : (s.setDl v).splimWritten = s.splimWritten := rfl
@[simp] theorem State.setDl_activeCtx (v : BitVec 3) (s : State) : (s.setDl v).activeCtx = s.activeCtx := rfl
@[simp] theorem State.setDl_ctxStack (v : BitVec 3) (s : State) : (s.setDl v).ctxStack = s.ctxStack := rfl
@[simp] theorem State.setDl_gieLag (v : BitVec 3) (s : State) : (s.setDl v).gieLag = s.gieLag := rfl
@[simp] theorem State.setDl_skid (v : BitVec 3) (s : State) : (s.setDl v).skid = s.skid := rfl
@[simp] theorem State.setDl_skidBound (v : BitVec 3) (s : State) : (s.setDl v).skidBound = s.skidBound := rfl
@[simp] theorem State.setDl_mode (v : BitVec 3) (s : State) : (s.setDl v).mode = s.mode := rfl
@[simp] theorem State.setDl_pins (v : BitVec 3) (s : State) : (s.setDl v).pins = s.pins := rfl
@[simp] theorem State.setDl_symbolic (v : BitVec 3) (s : State) : (s.setDl v).symbolic = s.symbolic := rfl
@[simp] theorem State.setDl_env (v : BitVec 3) (s : State) : (s.setDl v).env = s.env := rfl
@[simp] theorem State.setDl_ramSeed (v : BitVec 3) (s : State) : (s.setDl v).ramSeed = s.ramSeed := rfl
@[simp] theorem State.setDl_free (v : BitVec 3) (s : State) : (s.setDl v).free = s.free := rfl
@[simp] theorem State.setDl_log (v : BitVec 3) (s : State) : (s.setDl v).log = s.log := rfl

/-! ### macResult -/

@[simp] theorem State.macResult_pc (acc : AccSel) (s : State) : (s.macResult acc).pc = s.pc := by rw [State.macResult_frame]
@[simp] theorem State.macResult_w (acc : AccSel) (s : State) : (s.macResult acc).w = s.w := by rw [State.macResult_frame]
@[simp] theorem State.macResult_alt1 (acc : AccSel) (s : State) : (s.macResult acc).alt1 = s.alt1 := by rw [State.macResult_frame]
@[simp] theorem State.macResult_alt2 (acc : AccSel) (s : State) : (s.macResult acc).alt2 = s.alt2 := by rw [State.macResult_frame]
@[simp] theorem State.macResult_w15 (acc : AccSel) (s : State) : (s.macResult acc).w15 = s.w15 := by rw [State.macResult_frame]
@[simp] theorem State.macResult_corcon (acc : AccSel) (s : State) : (s.macResult acc).corcon = s.corcon := by rw [State.macResult_frame]
@[simp] theorem State.macResult_intcon2 (acc : AccSel) (s : State) : (s.macResult acc).intcon2 = s.intcon2 := by rw [State.macResult_frame]
@[simp] theorem State.macResult_intcon3 (acc : AccSel) (s : State) : (s.macResult acc).intcon3 = s.intcon3 := by rw [State.macResult_frame]
@[simp] theorem State.macResult_intcon4 (acc : AccSel) (s : State) : (s.macResult acc).intcon4 = s.intcon4 := by rw [State.macResult_frame]
@[simp] theorem State.macResult_ifs (acc : AccSel) (s : State) : (s.macResult acc).ifs = s.ifs := by rw [State.macResult_frame]
@[simp] theorem State.macResult_iec (acc : AccSel) (s : State) : (s.macResult acc).iec = s.iec := by rw [State.macResult_frame]
@[simp] theorem State.macResult_ipc (acc : AccSel) (s : State) : (s.macResult acc).ipc = s.ipc := by rw [State.macResult_frame]
@[simp] theorem State.macResult_inttreg (acc : AccSel) (s : State) : (s.macResult acc).inttreg = s.inttreg := by rw [State.macResult_frame]
@[simp] theorem State.macResult_disicnt (acc : AccSel) (s : State) : (s.macResult acc).disicnt = s.disicnt := by rw [State.macResult_frame]
@[simp] theorem State.macResult_splim (acc : AccSel) (s : State) : (s.macResult acc).splim = s.splim := by rw [State.macResult_frame]
@[simp] theorem State.macResult_rcon (acc : AccSel) (s : State) : (s.macResult acc).rcon = s.rcon := by rw [State.macResult_frame]
@[simp] theorem State.macResult_osccon (acc : AccSel) (s : State) : (s.macResult acc).osccon = s.osccon := by rw [State.macResult_frame]
@[simp] theorem State.macResult_dsrpag (acc : AccSel) (s : State) : (s.macResult acc).dsrpag = s.dsrpag := by rw [State.macResult_frame]
@[simp] theorem State.macResult_dswpag (acc : AccSel) (s : State) : (s.macResult acc).dswpag = s.dswpag := by rw [State.macResult_frame]
@[simp] theorem State.macResult_doStack (acc : AccSel) (s : State) : (s.macResult acc).doStack = s.doStack := by rw [State.macResult_frame]
@[simp] theorem State.macResult_ram (acc : AccSel) (s : State) : (s.macResult acc).ram = s.ram := by rw [State.macResult_frame]
@[simp] theorem State.macResult_prog (acc : AccSel) (s : State) : (s.macResult acc).prog = s.prog := by rw [State.macResult_frame]
@[simp] theorem State.macResult_dev (acc : AccSel) (s : State) : (s.macResult acc).dev = s.dev := by rw [State.macResult_frame]
@[simp] theorem State.macResult_splimWritten (acc : AccSel) (s : State) : (s.macResult acc).splimWritten = s.splimWritten := by rw [State.macResult_frame]
@[simp] theorem State.macResult_activeCtx (acc : AccSel) (s : State) : (s.macResult acc).activeCtx = s.activeCtx := by rw [State.macResult_frame]
@[simp] theorem State.macResult_ctxStack (acc : AccSel) (s : State) : (s.macResult acc).ctxStack = s.ctxStack := by rw [State.macResult_frame]
@[simp] theorem State.macResult_gieLag (acc : AccSel) (s : State) : (s.macResult acc).gieLag = s.gieLag := by rw [State.macResult_frame]
@[simp] theorem State.macResult_skid (acc : AccSel) (s : State) : (s.macResult acc).skid = s.skid := by rw [State.macResult_frame]
@[simp] theorem State.macResult_skidBound (acc : AccSel) (s : State) : (s.macResult acc).skidBound = s.skidBound := by rw [State.macResult_frame]
@[simp] theorem State.macResult_mode (acc : AccSel) (s : State) : (s.macResult acc).mode = s.mode := by rw [State.macResult_frame]
@[simp] theorem State.macResult_pins (acc : AccSel) (s : State) : (s.macResult acc).pins = s.pins := by rw [State.macResult_frame]
@[simp] theorem State.macResult_symbolic (acc : AccSel) (s : State) : (s.macResult acc).symbolic = s.symbolic := by rw [State.macResult_frame]
@[simp] theorem State.macResult_env (acc : AccSel) (s : State) : (s.macResult acc).env = s.env := by rw [State.macResult_frame]
@[simp] theorem State.macResult_ramSeed (acc : AccSel) (s : State) : (s.macResult acc).ramSeed = s.ramSeed := by rw [State.macResult_frame]
@[simp] theorem State.macResult_log (acc : AccSel) (s : State) : (s.macResult acc).log = s.log := by rw [State.macResult_frame]

@[simp] theorem State.deviceReset_pins (c : ResetCause) (s : State) : (s.deviceReset c).pins = s.pins := rfl

end Sys2Proof.Machine
end

