-- ==== Sys2Proof/Laws/PerInstr.lean ====
section
/-! SUPPORT. Families of statements about every instruction as syntax, one lemma per constructor of Instr. -/

namespace Sys2Proof.Laws.FirstWord

open Sys2Proof

/-- An instruction that has an encoding has one or two words, and its first word is the first word of a GOTO exactly where it has
two (R72: "GOTO is two words long"). -/
def Statement (i : Instr) : Prop :=
  ∀ ws, encode i = some ws → ∃ w rest, ws = w :: rest ∧ rest.length ≤ 1 ∧ (isGoto w = true ↔ rest.length = 1)

theorem nop : Statement .nop := by
  rintro _ ⟨⟩
  exact ⟨_, _, rfl, by decide, by decide⟩

theorem disi (lit14 : BitVec 14) : Statement (.disi lit14) := by
  rintro _ ⟨⟩
  refine ⟨_, _, rfl, by decide, ?_⟩
  have : isGoto (0b1111110000#10 ++ lit14) = false := by
    rw [Bool.eq_false_iff]
    intro h
    have h1 : (0b1111110000#10 ++ lit14) &&& 0xFF0001 = (0x040000 : PWord) := by simpa [isGoto, matchesRow] using h
    have h2 := congrArg (fun x : PWord => x.getLsbD 23) h1
    revert h2
    simp only [BitVec.getLsbD_and, BitVec.getLsbD_append]
    rw [if_neg (by decide)]
    decide
  rw [this]
  decide

theorem retfie : Statement .retfie := by
  rintro _ ⟨⟩
  exact ⟨_, _, rfl, by decide, by decide⟩

theorem ret : Statement .ret := by
  rintro _ ⟨⟩
  exact ⟨_, _, rfl, by decide, by decide⟩

theorem reset : Statement .reset := by
  rintro _ ⟨⟩
  exact ⟨_, _, rfl, by decide, by decide⟩

theorem pwrsav (m : SleepMode) : Statement (.pwrsav m) := by
  cases m <;> (rintro _ ⟨⟩; exact ⟨_, _, rfl, by decide, by decide⟩)

theorem goto (target : BitVec 23) : Statement (.goto target) := by
  rintro _ ⟨⟩
  refine ⟨_, _, rfl, Nat.le_refl 1, ?_⟩
  have : isGoto (0x04#8 ++ target.extractLsb' 1 15 ++ 0#1) = true := by
    simp only [isGoto, matchesRow, beq_iff_eq]
    apply BitVec.eq_of_getLsbD_eq
    intro i hi
    simp only [BitVec.getLsbD_and, BitVec.getLsbD_append]
    interval_cases i <;> simp
  rw [this]
  exact ⟨fun _ => rfl, fun _ => rfl⟩

theorem bra (slit16 : BitVec 16) : Statement (.bra slit16) := by
  rintro _ ⟨⟩
  refine ⟨_, _, rfl, by decide, ?_⟩
  have : isGoto (0x37#8 ++ slit16) = false := by
    rw [Bool.eq_false_iff]
    intro h
    have h1 : (0x37#8 ++ slit16) &&& 0xFF0001 = (0x040000 : PWord) := by simpa [isGoto, matchesRow] using h
    have h2 := congrArg (fun x : PWord => x.getLsbD 21) h1
    revert h2
    simp only [BitVec.getLsbD_and, BitVec.getLsbD_append]
    rw [if_neg (by decide)]
    decide
  rw [this]
  decide

theorem sftac (acc : AccSel) (amount : ShiftAmount) : Statement (.sftac acc amount) := by rintro _ ⟨⟩

theorem div (divisor : WReg) (firstIteration : Bool) (dsts : List WReg) :
    Statement (.div divisor firstIteration dsts) := by rintro _ ⟨⟩

theorem repeatLoop : Statement .repeatLoop := by rintro _ ⟨⟩

theorem doLoop (count : Word) (stop : PAddr) : Statement (.doLoop count stop) := by rintro _ ⟨⟩

theorem macClass (acc : AccSel) (x y : WReg) (dsts : List WReg) : Statement (.macClass acc x y dsts) := by rintro _ ⟨⟩

theorem bitManip (size : Size) (bit : Fin 16) (op : Operand) : Statement (.bitManip size bit op) := by rintro _ ⟨⟩

theorem movD (src dst : DwOperand) : Statement (.movD src dst) := by rintro _ ⟨⟩

theorem tblrd (ptr dst : WReg) : Statement (.tblrd ptr dst) := by rintro _ ⟨⟩

theorem btsc (bit : Fin 16) (op : Operand) : Statement (.btsc bit op) := by rintro _ ⟨⟩

theorem btss (bit : Fin 16) (op : Operand) : Statement (.btss bit op) := by rintro _ ⟨⟩

theorem sfrWrite (reg : Sfr) (mask value : Word) : Statement (.sfrWrite reg mask value) := by rintro _ ⟨⟩

theorem w15Access (op : StackOp) : Statement (.w15Access op) := by rintro _ ⟨⟩

end Sys2Proof.Laws.FirstWord
end

