-- ==== Sys2Proof/Laws/Regs.lean ====
section
/-! SUPPORT. The terms of Safety.lean that statements about results use: which registers changed, which bits a software write
changed, whether STKERR was set. -/

namespace Sys2Proof.Machine

open Sys2Proof

/-- With no condition logged in the step, its end does nothing. -/
theorem State.settle_of_fresh {s : State} {ipl : Nat} (h : s.log = {}) : s.settle ipl = s :=
  State.settle_of_calm (State.logged_of_empty h) (State.hardConflict_of_quiet (by rw [h]) (by rw [h]) (by rw [h]))

/-- Free SR bits leave IPL<2:0>. -/
theorem execFlags_ipl (sr v : Word) : mergeBits sr v 0xFF1F &&& 0x00E0 = sr &&& 0x00E0 := by
  apply BitVec.eq_of_getLsbD_eq; intro i hi; simp only [mergeBits]; interval_cases i <;> simp

/-- A write by access type is what the table of R98 says. -/
theorem bitsWritten_writeBits (old mask value rw rc : Word) (h : rw &&& rc = 0) :
    bitsWritten old (writeBits old mask value rw rc) mask value rw rc := by
  intro i hi
  have hr : (rw.getLsbD i && rc.getLsbD i) = false := by
    have := congrArg (fun v : Word => v.getLsbD i) h
    simpa using this
  rw [getLsbD_writeBits]
  revert hr
  cases mask.getLsbD i <;> cases rw.getLsbD i <;> cases rc.getLsbD i <;> cases value.getLsbD i <;> cases old.getLsbD i <;>
    simp

/-- Which set holds a register depends on the device and the active set only. -/
theorem State.bankOf_congr {s t : State} (hd : t.dev = s.dev) (hc : t.activeCtx = s.activeCtx) (i : Nat) :
    t.bankOf i = s.bankOf i := by
  simp [State.bankOf, hd, hc]

/-- States with the same registers and the same active set read the same. -/
theorem State.readW_congr {s t : State} (h1 : t.w = s.w)
    (h2 : t.alt1 = s.alt1) (h3 : t.alt2 = s.alt2) (h4 : t.w15 = s.w15)
    (hd : t.dev = s.dev) (hc : t.activeCtx = s.activeCtx) (i : WReg) : t.readW i = s.readW i := by
  unfold State.readW; simp only [State.bankOf_congr hd hc, h1, h2, h3, h4]

/-- Nothing changed. -/
theorem State.onlyRegs_refl (s : State) (ds) : s.onlyRegs s ds :=
  ⟨fun _ _ => rfl, fun _ => ⟨fun _ => rfl, fun _ => rfl, fun _ => rfl⟩⟩

/-- What other fields do is no matter. -/
theorem State.onlyRegs_congr {s t t' : State} {ds} (h : s.onlyRegs t ds) (h1 : t'.w = t.w)
    (h2 : t'.alt1 = t.alt1) (h3 : t'.alt2 = t.alt2) (h4 : t'.w15 = t.w15)
    (hd : t'.dev = t.dev) (hc : t'.activeCtx = t.activeCtx) : s.onlyRegs t' ds := by
  refine ⟨fun j hj => by rw [State.readW_congr h1 h2 h3 h4 hd hc]; exact h.1 j hj, fun j => ?_⟩
  rw [h1, h2, h3]; exact h.2 j

/-- A register of the list written. -/
theorem State.onlyRegs_writeW {s t : State} {ds : List WReg} {i : WReg} {v : Word} (h : s.onlyRegs t ds)
    (hd : t.dev = s.dev) (hc : t.activeCtx = s.activeCtx) (hi : i ∈ ds) : s.onlyRegs (t.writeW i v) ds := by
  refine ⟨fun j hj => ?_, fun j => ?_⟩
  · rw [State.readW_writeW, if_neg (by rintro rfl; exact hj hi)]; exact h.1 j hj
  · have hb := State.bankOf_congr hd hc
    have := h.2 j
    unfold State.writeW
    split
    · rename_i hi15
      by_cases e : j.val = i.val
      · have hj : s.bankOf j.val = s.bankOf i.val := by rw [e]
        rw [hj] at this ⊢
        cases hbk : s.bankOf i.val <;> simp only [hb, hbk] at * <;> simp_all
      · have ne : ¬ i.val = j.val := fun h => e h.symm
        split <;> simp_all
    · exact this

/-- Registers of the list freed. -/
theorem State.onlyRegs_freeRegs {s t : State} {ds : List WReg} (is : List WReg) (h : s.onlyRegs t ds)
    (hd : t.dev = s.dev) (hc : t.activeCtx = s.activeCtx) (hi : ∀ i ∈ is, i ∈ ds) : s.onlyRegs (t.freeRegs is) ds := by
  induction is generalizing t with
  | nil => exact h
  | cons i is ih =>
    simp only [State.freeRegs]
    apply ih
    · exact State.onlyRegs_congr (State.onlyRegs_writeW (v := Config.freeWord t.free) h hd hc (hi i (by simp)))
        rfl rfl rfl rfl rfl rfl
    · simp [hd]
    · simp [hc]
    · intro k hk; exact hi k (by simp [hk])

/-- The underflow check after an instruction as a bit of INTCON1. -/
theorem State.underflowAfter_or (used : Bool) (s t : State) : (t.underflowAfter used s.w15).intcon1 =
      t.intcon1 ||| (if (used = true ∨ t.w15 ≠ s.w15) ∧ t.w15 < 0x1000 then 4 else 0) := by
  unfold State.underflowAfter
  by_cases h : used = false ∧ t.w15 = s.w15
  · rw [if_pos h, if_neg (by rintro ⟨h1 | h1, -⟩ <;> simp_all)]
    simp
  · rw [if_neg h, State.underflowCheck_or]
    have : used = true ∨ t.w15 ≠ s.w15 := by cases used <;> simp_all
    simp [this]

/-- That check in the terms of Safety.lean. -/
theorem stackFlag_leftBelow {used : Prop} [Decidable used] {s t : State} {base a : Word}
    (h : a = base ||| (if (used ∨ t.w15 ≠ s.w15) ∧ t.w15 < 0x1000 then 4 else 0)) :
    stackFlag base a (s.leftBelow used t) := by
  subst h
  exact ⟨fun p => by rw [if_pos (show (used ∨ t.w15 ≠ s.w15) ∧ t.w15 < 0x1000 from p)],
    fun p => by rw [if_neg (show ¬((used ∨ t.w15 ≠ s.w15) ∧ t.w15 < 0x1000) from p)]; simp⟩

/-- Two checks that each set STKERR, in the terms of Safety.lean. -/
theorem stackFlag_or {base : Word} {p q : Prop} [Decidable p] [Decidable q] {P Q : Prop} (hp : p ↔ P) (hq : q ↔ Q) :
    stackFlag base (base ||| (if p then 4 else 0) ||| (if q then 4 else 0)) (P ∨ Q) := by
  unfold stackFlag
  rw [← hp, ← hq]
  clear hp hq
  by_cases h1 : p <;> by_cases h2 : q <;> simp [h1, h2, BitVec.or_assoc]

end Sys2Proof.Machine
end

