-- ==== Sys2Proof/Laws/Step.lean ====
section
/-! SUPPORT. What one step can do, said once: a property that each part of a step keeps is kept by the step. -/

namespace Sys2Proof.Machine

open Sys2Proof

/-- A property of states that the model's own bookkeeping fields do not enter. -/
def Plain (P : State → Prop) : Prop :=
  ∀ (s : State) (skid skidBound gieLag free : Nat) (mode : Mode) (log : StepLog) (env : List (List EnvEvent)),
    P s → P { s with
      skid := skid, skidBound := skidBound, gieLag := gieLag, free := free, mode := mode, log := log, env := env }

/-- An instruction that runs in a step is the one fetched there. -/
theorem State.runInstr_cases {s t : State} (h : s.runInstr = .next t) :
    (s.dev.progAt s.pc = false ∧ t = (s.fresh.raiseHard .addr).settle s.cpuIpl) ∨
    (s.dev.progAt s.pc = true ∧ ∃ i u, s.fetch = .next i ∧ exec i s = .next u ∧ t = u.loopEnd s.pc) := by
  unfold State.runInstr at h
  split at h
  · rename_i hp
    right
    refine ⟨hp, ?_⟩
    split at h
    · rename_i i hi
      obtain ⟨u, hu, ht⟩ := andThen_eq_next.mp h
      exact ⟨i, u, hi, hu, by cases ht; rfl⟩
    · cases h
    · cases h
  · rename_i hp
    left
    exact ⟨by simpa using hp, by cases h; rfl⟩

/-- What an instruction that runs while an exception waits leaves: its own next state, or the exception taken before it (D8). -/
theorem State.unlessPastLimit_cases {s t : State} {e : Exc} {r : Result} (h : s.unlessPastLimit e r = .next t) :
    (r = .next t ∧ t.skid ≤ s.skidLimit) ∨ s.draw.takeException e = .next t := by
  obtain ⟨u, hu, ht⟩ := andThen_eq_next.mp h
  split at ht
  · rename_i hle
    cases ht
    exact .inl ⟨hu, hle⟩
  · exact .inr ht

/-- What the CPU does at a boundary: an instruction, or the winner taken. -/
theorem State.boundary_cases {s t : State} {e : Option Exc} (h : s.boundary e = .next t) :
    (∃ skid skidBound free, State.runInstr { s with skid := skid, skidBound := skidBound, free := free } = .next t) ∨
    (∃ x free, e = some x ∧ State.takeException x { s with free := free } = .next t) := by
  unfold State.boundary at h
  split at h
  · exact .inl ⟨0, s.skidBound, s.free, h⟩
  · rename_i x
    split at h
    · exact .inr ⟨x, s.free, rfl, h⟩
    · split at h
      · rcases State.unlessPastLimit_cases h with ⟨h, -⟩ | h
        · exact .inl ⟨s.skid + 1, s.skidLimit, s.free + 1, h⟩
        · exact .inr ⟨x, s.free + 1, rfl, h⟩
      · exact .inr ⟨x, s.free + 1, rfl, h⟩

/-- Waking changes the mode only. -/
theorem State.wake_frame (s : State) : s.wake = { s with mode := s.wake.mode } := by
  unfold State.wake
  split <;> rfl

/-- What the CPU's part of a step does: it sleeps, or a boundary is followed by the count of DISICNT. -/
theorem State.cpuStep_cases {s t : State} (h : s.cpuStep = .next t) :
    (t = s.wake ∧ s.wake.mode ≠ .run) ∨
    (∃ u, s.wake.mode = .run ∧ State.boundary s.wake.winner { s.wake with gieLag := s.wake.gieLag - 1 } = .next u ∧
      t = u.tickDisi) := by
  unfold State.cpuStep at h
  dsimp only at h
  split at h
  · rename_i hm
    obtain ⟨u, hu, ht⟩ := andThen_eq_next.mp h
    exact .inr ⟨u, hm, hu, by cases ht; rfl⟩
  · rename_i hm
    exact .inl ⟨by cases h; rfl, hm⟩

/-- A property kept by every event is kept by a list of them. -/
theorem State.events_keeps {P : State → Prop} (hev : ∀ s e, P s → P (s.event e)) (es : List EnvEvent) (s : State)
    (h : P s) : P (s.events es) := by
  induction es generalizing s with
  | nil => exact h
  | cons e es ih => exact ih _ (hev _ _ h)

/-- A property that the bookkeeping does not enter, and that taking an exception, running the fetched instruction, the address
error of an unimplemented PC, the count of DISICNT and every event keep, is kept by every step. -/
theorem step_keeps {P : State → Prop} (hp : Plain P)
    (htake : ∀ s e t, P s → State.takeException e s = .next t → P t)
    (hexec : ∀ s i t, P s → s.fetch = .next i → exec i s = .next t → P (t.loopEnd s.pc))
    (hun : ∀ s, P s → P ((s.fresh.raiseHard .addr).settle s.cpuIpl))
    (htick : ∀ s, P s → P s.tickDisi)
    (hev : ∀ s e, P s → P (s.event e)) {s t : State} (h : P s) (hs : step s = .next t) : P t := by
  obtain ⟨u, hu, ht⟩ := andThen_eq_next.mp hs
  have h0 : P s.fresh := hp s s.skid s.skidBound s.gieLag s.free s.mode {} s.env h
  have key : P u := by
    have hw : P s.fresh.wake := by
      rw [State.wake_frame]
      exact hp s.fresh s.fresh.skid s.fresh.skidBound s.fresh.gieLag s.fresh.free _ s.fresh.log s.fresh.env h0
    rcases State.cpuStep_cases hu with ⟨rfl, -⟩ | ⟨v, -, hb, rfl⟩
    · exact hw
    · apply htick
      generalize s.fresh.wake = x at hw hb
      rcases State.boundary_cases hb with ⟨sk, sb, fr, hr⟩ | ⟨e, fr, -, he⟩
      · have hx : P { x with gieLag := x.gieLag - 1, skid := sk, skidBound := sb, free := fr } :=
          hp x sk sb (x.gieLag - 1) fr x.mode x.log x.env hw
        rcases State.runInstr_cases hr with ⟨-, rfl⟩ | ⟨-, i, w, hf, hx', rfl⟩
        · exact hun _ hx
        · exact hexec _ _ _ hx hf hx'
      · exact htake _ _ _ (hp x x.skid x.skidBound (x.gieLag - 1) fr x.mode x.log x.env hw) he
  cases ht
  have h1 : P ({ u with env := u.env.tail }) := hp u u.skid u.skidBound u.gieLag u.free u.mode u.log u.env.tail key
  have h2 := State.events_keeps hev (u.env.headD []) _ h1
  exact hp _ _ _ _ _ _ {} _ h2

end Sys2Proof.Machine
end

