-- ==== Sys2Proof/Tests/Slice0.lean ====
section
/-! SUPPORT. Tests: ill-formed terms refused, encodings of 95_test_vectors.md section 2.13, small steps of each instruction with
the values of 95_test_vectors.md section 2, and for each statement with hypotheses a state that meets them. -/

namespace Sys2Proof.Tests

open Sys2Proof Sys2Proof.Machine

-- One test after another: in parallel their threads' stacks go past check.sh's memory limit.
set_option Elab.async false

/-- Whether an outcome is a next state with a property. -/
def next (r : Result) (p : State → Bool) : Bool :=
  match r with
  | .next t => p t
  | .fault _ => false
  | .refused _ => false

/-- Whether an outcome is a given refusal. -/
def refusedBy (r : Result) (e : Refusal) : Bool :=
  match r with
  | .next _ => false
  | .fault _ => false
  | .refused e' => e == e'

/-- An outcome with a property of its next state has one. -/
theorem exists_of_next {r : Result} {p : State → Bool} (h : next r p = true) : ∃ t, r = .next t := by
  cases r with
  | next t => exact ⟨t, rfl⟩
  | fault e => exact absurd h (by simp [next])
  | refused e => exact absurd h (by simp [next])

/-- The reset machine with a program word at an even address. -/
def withWord (p : PAddr) (w : PWord) (s : State) : State :=
  { s with prog := Memory.program s.prog (2 * p.toNat) (bytesOfWord w) }

/-- The reset machine with two words of a frame on its stack, W15 above them. -/
def framed (w15 w0 w1 : Word) : State :=
  (({ State.reset with w15 := w15 }).setRamWord (w15 - 4) w0).setRamWord (w15 - 2) w1

/-- The reset machine at a CPU priority. -/
def atIpl (n : Nat) (s : State) : State :=
  { s with sr := BitVec.ofNat 16 (32 * (n % 8)), corcon := if n < 8 then s.corcon else s.corcon ||| 8 }

/-- The reset machine with IRQ n requested, enabled and at a level. -/
def irqAt (n : Nat) (level : Word) (s : State) : State :=
  { s with
    ifs := bankSet s.ifs n
    iec := bankSet s.iec n
    ipc := if h : n / 4 < 62 then s.ipc.set (n / 4) (level <<< (4 * (n % 4))) else s.ipc }

/-- The reset machine with a register written. -/
def reg (i : WReg) (v : Word) (s : State) : State := s.writeW i v

/-- A device with a few special function registers at addresses. -/
def withSfrs (s : State) : State :=
  { s with dev := { s.dev with sfrAddr := [(.sr, 0x0042), (.intcon2, 0x08C2), (.ifs 0, 0x0800), (.splim, 0x2000)] } }

/-! ### Ill-formed terms -/

theorem test_wf_goto_odd : Instr.wf (.goto 0x000201) = false := by decide
theorem test_wf_div_twice : Instr.wf (.div 2 true [0, 1, 0]) = false := by decide
theorem test_wf_do_odd : Instr.wf (.doLoop 3 0x000201) = false := by decide
theorem test_wf_mac_twice : Instr.wf (.macClass .a 8 10 [4, 4]) = false := by decide
theorem test_wf_byte_bit : Instr.wf (.bitManip .byte 8 (.direct 0)) = false := by decide
theorem test_wf_movD_memory : Instr.wf (.movD (.indirect 1) (.paged 2)) = false := by decide
theorem test_wf_call_odd : Instr.wf (.w15Access (.call 0x000201)) = false := by decide
theorem test_wf_link_odd : Instr.wf (.w15Access (.link 3)) = false := by decide
theorem test_wf_stops_step :
    refusedBy (step { State.reset with symbolic := [(0, .goto 0x000201)] }) .illFormed = true := by decide +kernel

/-! ### Encodings: the words of 95_test_vectors.md section 2.13, and R72's patterns -/

theorem test_decode_nop : decodeTableWord 24 0x00ABCD = some .nop := by decide +kernel
theorem test_decode_disi : decodeTableWord 24 0xFC3FFF = some (.disi 16383) := by decide +kernel
theorem test_decode_retfie : decodeTableWord 24 0x064000 = some .retfie := by decide +kernel
theorem test_decode_return : decodeTableWord 24 0x060000 = some .ret := by decide +kernel
theorem test_decode_reset : decodeTableWord 24 0xFE0000 = some .reset := by decide +kernel
theorem test_decode_sleep : decodeTableWord 24 0xFE4000 = some (.pwrsav .sleep) := by decide +kernel
theorem test_decode_idle : decodeTableWord 24 0xFE4001 = some (.pwrsav .idle) := by decide +kernel
theorem test_decode_goto :
    decode (bytesOfWord 0x042346 ++ bytesOfWord 0x000001) = .ok (.goto 0x012346, []) := by decide +kernel
theorem test_decode_goto_table : decodeTableWord 48 0x00007F04F000 = some (.goto 0x7FF000) := by decide +kernel
theorem test_decode_bra : decodeTableWord 24 0x37007F = some (.bra 0x007F) := by decide +kernel
theorem test_decode_no_rule : decode (bytesOfWord 0xFE0001) = .error (.noRule 0xFE0001) := by decide +kernel
theorem test_decode_goto_second :
    decode (bytesOfWord 0x040200 ++ bytesOfWord 0x000080) = .error (.gotoSecondWord 0x000080) := by decide +kernel

/-! ### Steps of the interrupt control instructions -/

/-- R84's example. -/
theorem test_nop : next (exec .nop { State.reset with pc := 0x000206 }) (·.pc == 0x000208) = true := by decide +kernel
/-- 2.6 row 1. -/
theorem test_disi : next (exec (.disi 3) State.reset) (fun t => t.disicnt == 3 && t.disi) = true := by decide +kernel
/-- 2.6 row 2. -/
theorem test_disi_zero :
    next (exec (.disi 0) { State.reset with disicnt := 9, intcon2 := 0xC000 })
      (fun t => t.disicnt == 0 && t.intcon2 == 0x8000) = true := by decide +kernel
/-- 2.7 row 1. -/
theorem test_retfie :
    next (exec .retfie (framed 0x1008 0x2347 0x8301))
      (fun t => t.sr == 0x0083 && !t.ipl3 && t.sfa && t.pc == 0x012346 && t.w15 == 0x1004) = true := by decide +kernel
/-- 2.7 row 3. -/
theorem test_retfie_sets_ipl3 :
    next (exec .retfie (framed 0x1004 0xFFFE 0xE0FF)) (fun t => t.cpuIpl == 15 && t.pc == 0x7FFFFE && t.w15 == 0x1000)
      = true := by decide +kernel
/-- R82. -/
theorem test_reset :
    next (exec .reset { State.reset with pc := 0x000400, sr := 0x00E0, iec := bankSet State.reset.iec 3 })
      (fun t => t.pc == 0 && t.sr == 0 && !t.iecBit 3 && t.w15 == 0x1000) = true := by decide +kernel
/-- R83's example. -/
theorem test_pwrsav :
    next (exec (.pwrsav .idle) { State.reset with pc := 0x000210 })
      (fun t => t.mode == .idle && t.pc == 0x000212) = true := by decide +kernel

/-! ### Steps of the control transfers and loops -/

/-- 2.13. -/
theorem test_bra_self : next (exec (.bra 0xFFFF) { State.reset with pc := 0x000200 }) (·.pc == 0x000200) = true := by
  decide +kernel
/-- 2.13. -/
theorem test_bra_forward : next (exec (.bra 0x007F) { State.reset with pc := 0x000200 }) (·.pc == 0x000300) = true := by
  decide +kernel
/-- 2.13. -/
theorem test_goto : next (exec (.goto 0x012346) State.reset) (·.pc == 0x012346) = true := by decide +kernel
/-- 2.8 row 22. -/
theorem test_goto_unimplemented :
    next (exec (.goto 0x7FF000) { State.reset with dev := { Device.full with implProg := [⟨0, 0x00FFFF⟩] } })
      (fun t => t.pc == 0x7FF000 && t.intcon1 == 0x0008) = true := by decide +kernel
/-- R91's example. -/
theorem test_return :
    next (exec .ret (framed 0x1004 0xFFFE 0x007F)) (fun t => t.pc == 0x7FFFFE && t.w15 == 0x1000 && t.sr == 0) = true := by
  decide +kernel
/-- R87. -/
theorem test_repeat : refusedBy (exec .repeatLoop State.reset) .repeatUndefined = true := by decide +kernel
/-- 2.8 row 12. -/
theorem test_do_full :
    next (exec (.doLoop 9 0x000210) { State.reset with corcon := 0x0420 })
      (fun t => t.intcon3 == 0x0010 && t.corcon == 0x0420) = true := by decide +kernel
/-- 2.8 row 13. -/
theorem test_do_nests :
    next (exec (.doLoop 9 0x000210) { State.reset with corcon := 0x0320 })
      (fun t => t.intcon3 == 0 && t.corcon == 0x0420) = true := by decide +kernel
/-- R96. -/
theorem test_btsc_skips : next (exec (.btsc 3 (.direct 2)) (reg 2 0xFFF7 State.reset)) (·.pc == 0x000004) = true := by
  decide +kernel
/-- R93 for BTSC. -/
theorem test_btsc_odd : next (exec (.btsc 0 (.indirect 2)) (reg 2 0x1801 State.reset)) (·.intcon1 == 0x0008) = true := by
  decide +kernel
/-- R97. -/
theorem test_btss_falls_through :
    next (exec (.btss 3 (.direct 2)) (reg 2 0xFFF7 State.reset)) (·.pc == 0x000002) = true := by decide +kernel

/-! ### Steps of the DSP and arithmetic instructions -/

/-- 2.8 row 1. -/
theorem test_sftac_legal :
    next (exec (.sftac .a (.lit (-16))) State.reset) (fun t => t.intcon1 == 0 && t.accB == 0) = true := by decide +kernel
/-- 2.8 row 2. -/
theorem test_sftac_beyond :
    next (exec (.sftac .a (.reg 4)) (reg 4 0xFFEF State.reset)) (fun t => t.intcon1 == 0x0090 && t.accA == 0) = true := by
  decide +kernel
/-- 2.8 row 3. -/
theorem test_div_zero : next (exec (.div 2 true [0, 1]) State.reset) (·.intcon1 == 0x0050) = true := by decide +kernel
/-- R86: only the first iteration checks. -/
theorem test_div_later : next (exec (.div 2 false [0, 1]) State.reset) (·.intcon1 == 0) = true := by decide +kernel
/-- R92: the Y fetch from X space. -/
theorem test_mac_y_in_x :
    next (exec (.macClass .a 8 10 []) (reg 8 0x1000 (reg 10 0x2000 { State.reset with corcon := 0x00A0 })))
      (·.intcon1 == 0x0008) = true := by decide +kernel
/-- R135, R136: with 31-bit saturation no overflow event, whatever the enable bits. -/
theorem test_mac_saturated :
    next (exec (.macClass .b 8 10 []) (reg 8 0x1000 (reg 10 0x8000 { State.reset with corcon := 0x0060, intcon1 := 0x0700 })))
      (fun t => t.intcon1 == 0x0700 && t.accA == 0) = true := by decide +kernel

/-! ### Steps of the data accesses -/

/-- 2.8 row 20. -/
theorem test_bit_odd :
    next (exec (.bitManip .byte 0 (.indirect 1)) (reg 1 0x1801 State.reset)) (fun t => t.intcon1 == 0x0008 && t.ram == [])
      = true := by decide +kernel
/-- R94 (general knowledge): a double word moves. -/
theorem test_movD :
    next (exec (.movD (.pair 1) (.indirect 4)) (reg 2 0x1234 (reg 3 0xABCD (reg 4 0x1800 State.reset))))
      (fun t => t.ramWord 0x1800 == 0x1234 && t.ramWord 0x1802 == 0xABCD) = true := by decide +kernel
/-- 2.8 row 19. -/
theorem test_movD_misaligned :
    next (exec (.movD (.pair 1) (.indirect 4)) (reg 4 0x1801 State.reset)) (fun t => t.intcon1 == 0x0008 && t.ram == [])
      = true := by decide +kernel
/-- R95: the PC moves on, no flag is set. -/
theorem test_tblrd : next (exec (.tblrd 4 5) State.reset) (fun t => t.pc == 2 && t.intcon1 == 0) = true := by
  decide +kernel
/-- 2.11 rows 1 and 2. -/
theorem test_sfr_corcon :
    next (exec (.sfrWrite .corcon 0x0008 0x0008) State.reset) (fun t => t.corcon == 0x0020)
      && next (exec (.sfrWrite .corcon 0x0008 0) (atIpl 14 State.reset)) (fun t => t.cpuIpl == 6) = true := by
  decide +kernel
/-- 2.11 rows 3 and 5. -/
theorem test_sfr_sr_intcon1 :
    next (exec (.sfrWrite .sr 0x00E0 0) { State.reset with sr := 0x00E0, intcon1 := 0x8000 }) (fun t => t.sr == 0x00E0)
      && next (exec (.sfrWrite .intcon1 0xFFFF 0xFFFF) State.reset) (·.intcon1 == 0) = true := by decide +kernel
/-- 2.8 rows 14 and 15. -/
theorem test_push_limit :
    next (exec (.w15Access (.push 3)) (reg 3 0x5A5A { State.reset with splim := 0x1FFE, splimWritten := true, w15 := 0x2000 }))
      (fun t => t.intcon1 == 0x0004 && t.w15 == 0x2002 && t.ramWord 0x2000 == 0x5A5A)
      && next (exec (.w15Access (.push 3)) { State.reset with splim := 0x1FFE, splimWritten := true, w15 := 0x1FFE })
        (fun t => t.intcon1 == 0 && t.w15 == 0x2000) = true := by decide +kernel
/-- 2.8 rows 17 and 18. -/
theorem test_pop_and_wrap :
    next (exec (.w15Access (.pop 3)) State.reset) (fun t => t.intcon1 == 0x0004 && t.w15 == 0x0FFE)
      && next (exec (.w15Access (.store .word 4 3)) { State.reset with w15 := 0xFFFE }) (fun t => t.intcon1 == 0x0004)
      = true := by decide +kernel

/-- R99: a call stacks two words. -/
theorem test_call :
    next (exec (.w15Access (.call 0x000400)) { State.reset with pc := 0x012344 })
      (fun t => t.pc == 0x000400 && t.w15 == 0x1004 && t.intcon1 == 0) = true := by decide +kernel
/-- R59: a call of whose two stack words the second is unimplemented writes neither. -/
theorem test_call_half_bad :
    next (exec (.w15Access (.call 0x000400)) { State.reset with dev := { Device.full with implData := [⟨0x1000, 0x1001⟩] } })
      (fun t => t.intcon1 == 0x0008 && t.ram == [] && t.w15 == 0x1004) = true := by decide +kernel
/-- R99: a frame of four words, linked and unlinked. -/
theorem test_link_unlink :
    next (andThen (exec (.w15Access (.link 8)) (reg 14 0x5A5A State.reset)) (exec (.w15Access .unlink)))
      (fun t => t.readW 14 == 0x5A5A && t.w15 == 0x1000 && t.intcon1 == 0) = true := by decide +kernel
/-- R54, R57: a bit test through an odd address in a page. -/
theorem test_paged_odd :
    next (exec (.btsc 0 (.paged 2)) (reg 2 0x9801 State.reset)) (·.intcon1 == 0x0008) = true := by decide +kernel
/-- R147, D30: a store past SPLIM that clears INTCON1 leaves the STKERR it caused. -/
theorem test_set_wins :
    next (exec (.w15Access (.store .word 0 3)) { State.reset with
        w15 := 0x2000, splim := 0x1FFE, splimWritten := true, dev := { Device.full with sfrAddr := [(.intcon1, 0x2000)] } })
      (·.intcon1 == 0x0004) = true := by decide +kernel

/-! ### Entry, arbitration, steps -/

/-- 93_implementation_defined.md section 2 row 21, and R145: DL = 001 and an interrupt; DL = 100 and DOOVR. -/
theorem test_do_interrupted :
    refusedBy (({ withWord 0x00001A 0x000400 State.reset with corcon := 0x0120 } : State).takeException (.irq 3))
        .doInterrupted
      && next (({ withWord 0x000010 0x000400 State.reset with corcon := 0x0420, intcon3 := 0x0010 } : State).takeException
        (.trap .genericSoft)) (·.pc == 0x000400) = true := by decide +kernel
/-- R184: a device without Auxiliary Flash resets to 0. -/
theorem test_reset_pc :
    next (exec .reset { State.reset with dev := { Device.full with resetPc := 0x7FC000 } }) (·.pc == 0)
      && next (exec .reset { State.reset with dev := { Device.full with resetPc := 0x7FC000, hasAux := true } })
        (·.pc == 0x7FC000) = true := by decide +kernel
/-- D8: with one instruction left a waiting request is taken before a bit test that skips. -/
theorem test_skip_counts :
    next (({ withWord 0x00000A 0x000400 State.reset with skid := 1 } : State).unlessPastLimit (.trap .stack)
        (exec (.btss 0 (.direct 2)) (reg 2 1 { State.reset with skid := 2 }))) (·.pc == 0x000400) = true := by decide +kernel

/-- 2.2 row 2 and 2.3: IRQ 3 at level 2 through its vector 0x00001A. -/
theorem test_entry :
    next ((irqAt 3 2 (withWord 0x00001A 0x000400
        { State.reset with pc := 0x012346, sr := 0x0083, corcon := 0x0024, w15 := 0x1004 })).takeException (.irq 3))
      (fun t => t.ramWord 0x1004 == 0x2347 && t.ramWord 0x1006 == 0x8301 && t.w15 == 0x1008 && t.pc == 0x000400 &&
        t.sr == 0x0043 && t.corcon == 0x0020 && t.inttreg == 0x0203) = true := by decide +kernel
/-- 2.3: the address error trap. -/
theorem test_trap_entry :
    next (step (withWord 0x000006 0x000500 { State.reset with intcon1 := 0x0008 }))
      (fun t => t.pc == 0x000500 && t.cpuIpl == 14 && t.w15 == 0x1004) = true := by decide +kernel
/-- 2.4 rows 1, 2, 3 and 12. -/
theorem test_winner :
    ((irqAt 7 4 (irqAt 3 4 State.reset)).winner, (irqAt 7 5 (irqAt 3 2 State.reset)).winner,
      (atIpl 4 (irqAt 3 4 State.reset)).winner, ({ irqAt 3 7 State.reset with intcon2 := 0xC000 } : State).winner)
      = (some (.irq 3), some (.irq 7), none, some (.irq 3)) := by decide +kernel
/-- 2.10 row 2. -/
theorem test_conflict :
    next (exec (.sfrWrite .intcon2 0x2000 0x2000) (atIpl 14 { State.reset with intcon1 := 0x0008 }))
      (fun t => t.corcon == 0x0020 && t.sr == 0 && t.intcon1 == 0) = true := by decide +kernel
/-- The first step after reset runs the instruction that withFetchWord places. -/
theorem test_first_step : next (step (State.reset.withFetchWord 48 0x000001042346)) (·.pc == 0x012346) = true := by
  decide +kernel

/-! ### What the hypotheses of the statements are met by -/

theorem witness_DecodeOfEncodeIsSame :
    Instr.wf (.goto 0x7FFFFE) = true ∧ encodeBytes (.goto 0x7FFFFE) = some [0xFE, 0xFF, 0x04, 0x7F, 0x00, 0x00] := by
  decide +kernel

theorem witness_EncodeOfDecodeIsSame :
    decode [0x7F, 0x00, 0x37, 0x01] = .ok (.bra 0x007F, [0x01]) ∧ decode [1, 2, 0] = .ok (.nop, []) := by decide +kernel

theorem witness_UnknownWordIsRefused :
    ((State.reset.withFetchWord 24 0xFE0001).readyToRun ∧ (State.reset.withFetchWord 24 0xFE0001).symbolicAt 0 = none ∧
      (State.reset.withFetchWord 24 0xFE0001).progWord 0 = 0xFE0001) ∧
    (State.reset.withFetchWord 48 0x000080040200).readyToRun ∧
    (State.reset.withFetchWord 48 0x000080040200).progWord 0 = 0x040200 ∧
    (State.reset.withFetchWord 48 0x000080040200).progWord 2 = 0x000080 := by
  unfold State.readyToRun; decide +kernel

theorem witness_StepRunsDecodedInstr :
    ((State.reset.withFetchWord 24 0xFC0003).readyToRun ∧
      (State.reset.withFetchWord 24 0xFC0003).symbolicAt 0 = none ∧
      decode (bytesOfWord ((State.reset.withFetchWord 24 0xFC0003).progWord 0) ++
        bytesOfWord ((State.reset.withFetchWord 24 0xFC0003).progWord 2)) = .ok (.disi 3, [0x00, 0x00, 0x00])) ∧
    ({ State.reset with symbolic := [(0, .tblrd 4 5)] } : State).readyToRun ∧
    ({ State.reset with symbolic := [(0, .tblrd 4 5)] } : State).symbolicAt 0 = some (.tblrd 4 5) ∧
    Instr.wf (.tblrd 4 5) = true := by
  unfold State.readyToRun; decide +kernel

theorem witness_HardTrapTakenAtOnce :
    ({ State.reset with intcon4 := 1 } : State).winner = some (.trap .genericHard) ∧ Trap.genericHard.hard = true := by
  decide +kernel

theorem witness_RequestTakenWithinSkid :
    ((irqAt 3 1 { State.reset with skid := 1 }).winner = some (.irq 3) ∧ (Exc.irq 3).hard = false ∧
      Device.full.skidMax = some 2 ∧ (irqAt 3 1 { State.reset with skid := 1 }).skidLimit = 2) ∧
    (({ State.reset with intcon1 := 4, skid := 2 } : State).winner = some (.trap .stack) ∧
      ({ State.reset with intcon1 := 4, skid := 2 } : State).skidLimit ≤ 2) ∧
    ({ State.reset with dev := { Device.full with skidMax := none }, skid := 3, skidBound := 9 } : State).skidLimit = 9 := by
  decide +kernel

theorem witness_RequestCountStaysWithinBound :
    ({ State.reset.withFetchWord 24 0x000000 with skid := 2 } : State).skid ≤
      ({ State.reset.withFetchWord 24 0x000000 with skid := 2 } : State).skidLimit ∧
    next (step { State.reset.withFetchWord 24 0x000000 with skid := 2 }) (·.skid == 0) = true := by decide +kernel

theorem witness_LevelZeroSourceCannotWake :
    (irqAt 3 0 { State.reset with mode := .sleep }).trapWinner = none ∧
    ∀ n, (irqAt 3 0 { State.reset with mode := .sleep }).implemented n = true →
      (irqAt 3 0 { State.reset with mode := .sleep }).ifsBit n = true →
      (irqAt 3 0 { State.reset with mode := .sleep }).iecBit n = true →
      ((irqAt 3 0 { State.reset with mode := .sleep }).ipcOf n).toNat = 0 := by
  refine ⟨by decide +kernel, fun n hi => ?_⟩
  have h : ∀ n : Fin 246, (irqAt 3 0 { State.reset with mode := .sleep }).ifsBit n = true →
      (irqAt 3 0 { State.reset with mode := .sleep }).iecBit n = true →
      ((irqAt 3 0 { State.reset with mode := .sleep }).ipcOf n).toNat = 0 := by decide +kernel
  exact h ⟨n, BitVec.lt_of_getLsbD hi⟩

theorem witness_EnabledSourceWakes :
    (irqAt 3 1 { State.reset with mode := .idle }).irqWakes 3 = true ∧
    ({ State.reset with mode := .sleep, intcon1 := 2 } : State).trapDeliverable .oscillator = true := by decide +kernel

theorem witness_UnimplementedPcRaisesAddressError :
    ({ State.reset with pc := 0x800000 } : State).winner = none ∧
    ({ State.reset with pc := 0x800000 } : State).dev.progAt 0x800000 = false ∧
    ({ State.reset with pc := 0x800000 } : State).addrErrorFree ∧
    ¬(atIpl 14 { State.reset with pc := 0x800000 }).addrErrorFree ∧
    (atIpl 14 { State.reset with pc := 0x800000 }).winner = none := by
  unfold State.addrErrorFree; decide +kernel

theorem witness_WinnerIsAboveCpuPriority :
    (atIpl 6 (irqAt 245 7 State.reset)).winner = some (.irq 245) ∧
    (atIpl 14 { State.reset with intcon1 := 2 }).winner = some (.trap .oscillator) := by decide +kernel

theorem witness_DisiHoldsOffLevelsOneToSix :
    ({ irqAt 3 6 State.reset with intcon2 := 0xC000 } : State).disi = true ∧ (irqAt 3 6 State.reset).ipcOf 3 = 6 ∧
    (irqAt 3 7 State.reset).ipcOf 3 = 7 := by decide +kernel

theorem witness_GieGatesInterruptsOnly :
    (({ State.reset with intcon2 := 0 } : State).gie = false ∧ ({ State.reset with intcon2 := 0 } : State).gieLag = 0) ∧
    State.reset.gie = true ∧ 0 < ({ State.reset with intcon2 := 0, gieLag := 2 } : State).gieLag := by decide +kernel

theorem witness_CpuPriorityIsIpl3ThenIpl :
    (atIpl 7 State.reset).sr.extractLsb' 5 3 = 0b111#3 ∧ (atIpl 7 State.reset).corcon.getLsbD 3 = false := by
  decide +kernel

theorem witness_VectorAddressSelection :
    (({ Device.full with hasAux := true, auxFlash := [⟨0x7FC000, 0x7FFFFF⟩] } : Device).inAuxFlash 0x7FC000 = true) ∧
    (({ Device.full with aivtdis := false, bslim := 0x1FFD } : Device).aivtConfigEnabled = true) ∧
    Device.full.aivtConfigEnabled = false ∧ Device.full.ivtBase = 0x000004 ∧ Device.full.vecStride = 2 ∧
    ({ State.reset with intcon2 := 0x8100 } : State).intcon2.getLsbD 8 = true := by decide +kernel

theorem witness_TrapEntryResult :
    (withWord 0x000004 0x7FFFFE State.reset).framePushable ∧
    (withWord 0x000004 0x7FFFFE State.reset).vectorAddress Trap.oscillator.vector = some 0x000004 ∧
    (withWord 0x000004 0x7FFFFE State.reset).progWord 0x000004 = 0x7FFFFE := by
  unfold State.framePushable State.ramWordAt; decide +kernel

theorem witness_InterruptEntryResult :
    (withWord 0x0001FE 0x000400 State.reset).framePushable ∧
    (withWord 0x0001FE 0x000400 State.reset).ctxRefusal (.irq 245) = none ∧
    (withWord 0x0001FE 0x000400 State.reset).vectorAddress (245 + 8) = some 0x0001FE ∧
    (withWord 0x0001FE 0x000400 State.reset).progWord 0x0001FE = 0x000400 := by
  unfold State.framePushable State.ramWordAt; decide +kernel

/-- The device with both CTXT fields as given, the AIVT selected and without a base. -/
def altDevice (ctxt : Word) : Device :=
  { Device.full with faltreg := ctxt, aivtdis := false, bslim := 0x1FFD }

/-- A trap's handler in place, and the stack's next word, or the one after it, on INTCON2. -/
def onIntcon2 (a : Word) : State :=
  withWord 0x00000A 0x000400 { State.reset with pc := 0x004000, sr := 0x0040, dev := { Device.full with sfrAddr := [(.intcon2, a)] } }

/-- D11: an entry that would change INTCON2.DISI by its frame. -/
theorem test_entry_on_intcon2 :
    refusedBy ((onIntcon2 0x1000).takeException (.trap .stack)) .disiBitWrite
      && refusedBy ((onIntcon2 0x1002).takeException (.trap .stack)) .disiBitWrite = true := by decide +kernel

/-- R99: a load beyond SPLIM, and one through a W15 below 0x1000, set STKERR. -/
theorem test_load_beyond_splim :
    next (exec (.w15Access (.load .word 2 3)) { State.reset with splim := 0x1FFE, splimWritten := true, w15 := 0x1FFE })
      (·.intcon1 == 0x0004)
      && next (exec (.w15Access (.load .word 2 3)) { State.reset with w15 := 0x0FFC }) (·.intcon1 == 0x0004) = true := by
  decide +kernel

/-- R147: a misaligned push beyond SPLIM sets both flags. -/
theorem test_bad_push_beyond_splim :
    next (exec (.w15Access (.push 3)) { State.reset with splim := 0x1FFE, splimWritten := true, w15 := 0x2001 })
      (fun t => t.intcon1 == 0x000C && t.w15 == 0x2003 && t.ram == []) = true := by decide +kernel

/-- 2.10 row 8: an oscillator failure in the step of an address error resets. -/
theorem test_osc_after_addr :
    next (step { State.reset.withFetchWord 48 0x00007F04FFFE with
        dev := { Device.full with implProg := [⟨0, 0xFFFF⟩] }, env := [[.oscFail]] })
      (fun t => t.pc == 0 && t.intcon1 == 0) = true := by decide +kernel

/-- R28: a byte stored to SPLIM does not enable the overflow check, a word does. -/
theorem test_splim_byte :
    next (exec (.sfrWrite .splim 0x00FF 0x0012) State.reset) (fun t => t.splim == 0x0012 && !t.splimWritten)
      && next (exec (.sfrWrite .splim 0xFFFF 0x0012) State.reset) (·.splimWritten) = true := by decide +kernel

theorem witness_EntryRefusals_stack :
    (onIntcon2 0x1000).entryRefusal (.trap .stack) = none ∧
    (onIntcon2 0x1000).vectorAddress (Exc.trap .stack).vector = some 0x00000A ∧
    (onIntcon2 0x1000).progWord 0x00000A = 0x000400 ∧ (onIntcon2 0x1000).pc.getLsbD 14 = true ∧
    (onIntcon2 0x1000).badAccess .word (onIntcon2 0x1000).w15 = false ∧
    (onIntcon2 0x1000).dev.sfrAt (onIntcon2 0x1000).w15 = some .intcon2 ∧
    (onIntcon2 0x1002).ramWordAt (onIntcon2 0x1002).w15 ∧
    (onIntcon2 0x1002).badAccess .word ((onIntcon2 0x1002).w15 + 2) = false ∧
    (onIntcon2 0x1002).dev.sfrAt ((onIntcon2 0x1002).w15 + 2) = some .intcon2 ∧
    (onIntcon2 0x1002).sr.getLsbD 6 = true ∧ (onIntcon2 0x1002).intcon2.getLsbD 14 = false := by
  unfold State.ramWordAt; decide +kernel

theorem witness_EntryRefusals :
    (State.reset.vectorAddress (Exc.irq 0).vector = some 0x000014 ∧ State.reset.ctxRefusal (.irq 0) = none ∧
      State.reset.progWord 0x000014 = 0xFFFFFF) ∧
    (({ State.reset with dev := altDevice 0xFFFF, intcon2 := 0x8100 } : State).ctxRefusal (.trap .stack) = none ∧
      (altDevice 0xFFFF).aivtConfigEnabled = true ∧ (altDevice 0xFFFF).aivtBase = none) ∧
    ((altDevice 0x0000).faltreg.extractLsb' 0 3 = (altDevice 0x0000).faltreg.extractLsb' 4 3 ∧
      (altDevice 0x0000).faltreg.extractLsb' 0 3 ≠ 7) ∧
    ((altDevice 0x0070).faltreg.extractLsb' 0 3 ≠ (altDevice 0x0070).faltreg.extractLsb' 4 3 ∧
      ({ State.reset with intcon1 := 0x8000 } : State).intcon1.getLsbD 15 = true ∧
      State.reset.intcon1.getLsbD 15 = false) ∧
    ((altDevice 0xFFFF).faltreg.extractLsb' 0 3 = 7 ∧ (altDevice 0xFFFF).faltreg.extractLsb' 4 3 = 7) := by decide +kernel

theorem witness_RetfieResult :
    (framed 0x1008 0x2347 0x8301).framePoppable ∧
    ({ framed 0x1008 0x2347 0x8301 with ctxStack := [.alt1] } : State).ctxStack = .alt1 :: [] ∧
    (framed 0x1008 0x2347 0x8301).ctxStack = [] := by
  unfold State.framePoppable State.ramWordAt; decide +kernel

theorem witness_EntryOnBadStack :
    (({ withWord 0x00000A 0x000600 State.reset with w15 := 0x1001 } : State).entryRefusal (.trap .stack) = none ∧
      (withWord 0x00000A 0x000600 State.reset).vectorAddress (Exc.trap .stack).vector = some 0x00000A ∧
      ({ withWord 0x00000A 0x000600 State.reset with w15 := 0x1001 } : State).badAccess .word 0x1001 = true ∧
      ({ withWord 0x00000A 0x000600 State.reset with w15 := 0x1001 } : State).badAccess .word 0x1003 = true ∧
      ({ withWord 0x00000A 0x000600 State.reset with w15 := 0x1001 } : State).addrErrorFree) ∧
    (({ State.reset with w15 := 0xFFFE, dev := { Device.full with implData := [⟨0x0800, 0xFFFF⟩] } } : State).ramWordAt 0xFFFE ∧
      ({ State.reset with w15 := 0xFFFE, dev := { Device.full with implData := [⟨0x0800, 0xFFFF⟩] } } : State).badAccess
        .word (0xFFFE + 2) = true) ∧
    ¬(atIpl 14 State.reset).addrErrorFree := by
  unfold State.addrErrorFree State.ramWordAt; decide +kernel

theorem witness_ReturnsFromBadStack :
    (({ State.reset with w15 := 0x1005 } : State).badAccess .word (0x1005 - 2) = true ∧
      ({ State.reset with w15 := 0x1005 } : State).addrErrorFree) ∧
    (({ State.reset with w15 := 0x0802, dev := { Device.full with implData := [⟨0x0800, 0xFFFF⟩] } } : State).badAccess
        .word (0x0802 - 2) = false ∧
      ({ State.reset with w15 := 0x0802, dev := { Device.full with implData := [⟨0x0800, 0xFFFF⟩] } } : State).badAccess
        .word (0x0802 - 4) = true) ∧
    ¬({ State.reset with w15 := 0x1005, intcon1 := 2 } : State).addrErrorFree := by
  unfold State.addrErrorFree; decide +kernel

theorem witness_ReturnUndoesEntry :
    (withWord 0x00000A 0x000600 State.reset).framePushable ∧ State.reset.pc.getLsbD 0 = false ∧
    State.reset.pc.getLsbD 23 = false ∧
    ∃ t, (withWord 0x00000A 0x000600 State.reset).takeException (.trap .stack) = .next t := by
  refine ⟨?_, by decide, by decide, exists_of_next (p := fun _ => true) (by decide +kernel)⟩
  unfold State.framePushable State.ramWordAt; decide +kernel

theorem witness_DisiLoadsAndCountsDown :
    ({ State.reset with disicnt := 1, intcon2 := 0xC000 } : State).disi = true ∧
    ({ State.reset with disicnt := 1, intcon2 := 0xC000 } : State).log.disiLoad = false ∧ State.reset.disi = false := by
  decide +kernel

theorem witness_GotoAndBraResult :
    State.reset.dev.progAt (BitVec.zeroExtend 24 (0x7FFFFE : BitVec 23)) = true ∧
    ({ State.reset with pc := 0x7FFFFE } : State).dev.progAt (0x7FFFFE + 2 + 2 * BitVec.signExtend 24 (0 : BitVec 16)) = false ∧
    State.reset.addrErrorFree ∧ ¬(atIpl 14 State.reset).addrErrorFree := by
  unfold State.addrErrorFree; decide +kernel

theorem witness_ReturnResult : (framed 0x1004 0xFFFE 0x007F).framePoppable := by
  unfold State.framePoppable State.ramWordAt; decide +kernel

theorem witness_DoResult :
    State.reset.dev.hasDsp = true ∧ (BitVec.extractLsb' 8 3 (0x0420 : Word)) = 0b100#3 ∧
    (BitVec.extractLsb' 8 3 (0x0320 : Word)).toNat = (3 : Fin 4).val ∧ 4 < (BitVec.extractLsb' 8 3 (0x0720 : Word)).toNat := by
  decide +kernel

theorem witness_LoopEndResult :
    ((0x0020 : Word).extractLsb' 8 3 = 0 ∧ 4 < ((0x0720 : Word).extractLsb' 8 3).toNat) ∧
    ((0x0420 : Word).extractLsb' 8 3).toNat = (3 : Fin 4).val + 1 ∧
    ({ State.reset with corcon := 0x0120, doStack := State.reset.doStack.set 0 ⟨5, 0x000202, 0x000208⟩ } : State).doStack[
      (0 : Fin 4)].stop = 0x000208 := by decide +kernel

theorem witness_BitTestSkipResult :
    (reg 2 0x1800 State.reset).badAccess .word ((reg 2 0x1800 State.reset).readW 2) = false ∧ State.reset.dsrpag ≠ 0 ∧
    ((reg 2 0x1800 State.reset).readW 2).getLsbD 0 = false := by
  decide +kernel

theorem witness_SftacResult :
    State.reset.dev.hasDsp = true ∧ ((reg 4 0xFFF0 State.reset).readW 4).toInt = -16 ∧
    ((reg 4 0x0011 State.reset).readW 4).toInt = 17 := by decide +kernel

theorem witness_DivideResult : State.reset.readW 2 = 0 ∧ (reg 2 1 State.reset).readW 2 ≠ 0 := by decide +kernel

theorem witness_MacResult :
    State.reset.dev.hasDsp = true ∧ State.reset.badAccess .word 0x7FFE = false ∧ State.reset.dev.inY 0x7FFE = false ∧
    State.reset.badAccess .word 0x8000 = false ∧ State.reset.dev.inY 0x8000 = true ∧
    (reg 8 0x7FFE State.reset).readW 8 = 0x7FFE ∧ (reg 10 0x8000 State.reset).readW 10 = 0x8000 := by decide +kernel

theorem witness_BitManipulationResult :
    ((reg 2 0x1800 State.reset).badAccess .byte 0x1800 = false ∧ (reg 2 0x1800 State.reset).dev.sfrAt 0x1800 = none ∧
      (reg 2 0x1800 State.reset).readW 2 = 0x1800) ∧
    (withSfrs State.reset).badAccess .word 0x0800 = false ∧ (withSfrs State.reset).dev.sfrAt 0x0800 = some (.ifs 0) ∧
    (withSfrs (reg 2 0x0800 State.reset)).readW 2 = 0x0800 := by decide +kernel

theorem witness_MovDResult :
    (reg 2 0xFFFC State.reset).ramWordAt 0xFFFC ∧ (reg 2 0xFFFC State.reset).ramWordAt (0xFFFC + 2) ∧
    (reg 2 0xFFFC State.reset).readW 2 = 0xFFFC ∧ State.reset.dsrpag ≠ 0 := by
  unfold State.ramWordAt; decide +kernel

theorem witness_PushAndPopResult :
    State.reset.badAccess .word (State.reset.w15 - 2) = false ∧ State.reset.ramWordAt State.reset.w15 ∧ ({ State.reset with w15 := 0xFFFE } : State).ramWordAt 0xFFFE := by
  unfold State.ramWordAt; decide +kernel

theorem witness_StackFrameResult :
    (State.reset.framePushable ∧ (State.reset.pc + 2).getLsbD 0 = false ∧ (State.reset.pc + 2).getLsbD 23 = false) ∧
    (reg 14 0x1008 State.reset).badAccess .word ((reg 14 0x1008 State.reset).readW 14 - 2) = false := by
  unfold State.framePushable State.ramWordAt; decide +kernel

theorem witness_StackMoveResult :
    State.reset.ramWordAt (State.reset.w15 + 0xFFFE) ∧ State.reset.badAccess .byte (State.reset.w15 + 1) = false ∧
    State.reset.dev.sfrAt (State.reset.w15 + 1) = none ∧
    Memory.get (State.reset.setRamByte 0x1801 0x5A).ram (0x1801 : Word).toNat = some 0x5A ∧
    (withSfrs State.reset).dev.sfrAt 0x0801 = some (.ifs 0) := by
  unfold State.ramWordAt; decide +kernel

theorem witness_AddressErrorInhibitsWrites :
    State.reset.addrErrorFree ∧ (reg 1 0x1801 State.reset).writesBadly (.btsc 3 (.paged 1)) ∧
    (reg 1 0x1801 State.reset).writesBadly (.movD (.pair 1) (.indirect 1)) ∧
    ({ State.reset with w15 := 0x1001 } : State).framesBadly (.w15Access (.call 0x000400)) ∧
    ({ State.reset with w15 := 0x1001 } : State).framesBadly (.w15Access (.link 4)) := by
  refine ⟨by unfold State.addrErrorFree; decide +kernel, .inr (.inl ⟨3, 1, ?_, ?_⟩),
    .inr (.inr (.inr (.inl ⟨1, 1, rfl, ?_⟩))), .inl ⟨_, rfl, ?_⟩, .inr (.inl ⟨_, rfl, ?_⟩)⟩
  · exact .inr (.inr (.inl rfl))
  all_goals decide +kernel

theorem witness_BadReadRaisesAddressError :
    State.reset.addrErrorFree ∧ (reg 2 0x9801 State.reset).readsBadly (.movD (.paged 2) (.pair 1)) ∧
    ({ State.reset with w15 := 0x1003 } : State).readsBadly (.w15Access (.pop 3)) ∧
    (reg 8 0x8000 State.reset).readsBadly (.macClass .a 8 10 []) := by
  refine ⟨by unfold State.addrErrorFree; decide +kernel, .inr (.inr (.inr (.inl ⟨2, 1, rfl, .inl ?_⟩))),
    .inr (.inl ⟨3, rfl, ?_⟩), .inr (.inr (.inr (.inr (.inr (.inr ⟨.a, 8, 10, [], rfl, rfl, .inr (.inl ?_)⟩)))))⟩
  all_goals decide +kernel

theorem witness_HardTrapConflictResets :
    (¬(atIpl 14 (reg 1 0x1801 State.reset)).addrErrorFree ∧
      (atIpl 14 (reg 1 0x1801 State.reset)).writesBadly (.bitManip .byte 0 (.indirect 1))) ∧
    13 ≤ (atIpl 13 State.reset).cpuIpl ∧ (atIpl 13 State.reset).intcon2.getLsbD 13 = false ∧
    (0xA000 : Word).getLsbD 13 = true ∧ (0xA000 : Word).getLsbD 14 = false ∧
    (atIpl 13 State.reset).intcon4.getLsbD 0 = false := by
  refine ⟨⟨by unfold State.addrErrorFree; decide +kernel, .inl ⟨_, _, _, rfl, .inl ?_⟩⟩, ?_⟩
  all_goals decide +kernel

theorem witness_FormsRefusedByName :
    ({ State.reset with dev := { Device.full with hasDsp := false } } : State).dev.hasDsp = false ∧
    State.reset.dswpag ≠ 0 ∧ State.reset.dsrpag ≠ 0 ∧ (State.reset.readW 2).getLsbD 0 = false := by decide +kernel

theorem witness_SfrWriteSrAndCorcon :
    State.reset.intcon1.getLsbD 15 = false ∧
    ({ State.reset with intcon1 := 0x8000 } : State).intcon1.getLsbD 15 = true ∧
    (atIpl 15 State.reset).corcon.getLsbD 3 = true := by decide +kernel

theorem witness_SfrWriteIntcon2 :
    ((0x4000 : Word).getLsbD 14 = true ∧ (0x4000 : Word).getLsbD 14 ≠ State.reset.intcon2.getLsbD 14) ∧
    ((0x2000 : Word).getLsbD 14 = false ∧ State.reset.intcon2.getLsbD 13 = false ∧ State.reset.cpuIpl < 13 ∧
      State.reset.intcon1.getLsbD 1 = false ∧ State.reset.intcon1.getLsbD 3 = false) := by decide +kernel

theorem witness_SfrWriteTrapFlags :
    ((0x0008 : Word).getLsbD 3 = true ∧ State.reset.intcon1.getLsbD 3 = false ∧ ¬(14 ≤ State.reset.cpuIpl)) ∧
    14 ≤ (atIpl 14 State.reset).cpuIpl ∧ (atIpl 14 State.reset).intcon1.getLsbD 3 = false ∧
    (atIpl 15 State.reset).cpuIpl = 15 ∧ (atIpl 12 State.reset).intcon4.getLsbD 0 = false := by decide +kernel

theorem witness_SfrWriteCountersAndOthers :
    ({ State.reset with disicnt := 2, intcon2 := 0xC000 } : State).intcon2.getLsbD 14 = true ∧
    State.reset.intcon2.getLsbD 14 = false ∧ (0x0001 : Word) &&& 0x3FFF ≠ 0 ∧ (0xC000 : Word) &&& 0x3FFF = 0 := by
  decide +kernel

theorem witness_StoreToSfrIsSfrWrite :
    ((withSfrs State.reset).dev.sfrAt ((withSfrs State.reset).w15 + 0x1000) = some .splim ∧
      ¬(withSfrs State.reset).overLimit 0x2000 ∧
      (((withSfrs State.reset).w15.toNat : Int) + (0x1000 : Word).toInt ≤ 0xFFFF) ∧
      (withSfrs State.reset).badAccess .word 0x2000 = false ∧ (withSfrs State.reset).badAccess .byte 0x2001 = false) ∧
    ((withSfrs (reg 2 0x0800 State.reset)).dev.sfrAt 0x0800 = some (.ifs 0) ∧
      (withSfrs (reg 2 0x0800 State.reset)).badAccess .byte 0x0800 = false ∧
      (withSfrs (reg 2 0x0800 State.reset)).badAccess .word 0x0802 = false ∧
      (withSfrs (reg 2 0x0800 State.reset)).dev.sfrAt (0x0800 + 2) = none ∧
      (withSfrs (reg 2 0x07FE State.reset)).dev.sfrAt 0x07FE = none ∧
      (withSfrs (reg 2 0x07FE State.reset)).dev.sfrAt (0x07FE + 2) = some (.ifs 0)) ∧
    ((withSfrs { State.reset with w15 := 0x2000 }).dev.sfrAt 0x2000 = some .splim ∧
      ¬(withSfrs { State.reset with w15 := 0x2000 }).overLimit 0x2000) ∧
    ((onIntcon2 0x1000).dev.sfrAt (onIntcon2 0x1000).w15 = some .intcon2 ∧
      (reg 3 0x4000 (onIntcon2 0x1000)).readW 3 = 0x4000 ∧ (onIntcon2 0x1000).intcon2.getLsbD 14 = false) ∧
    ((atIpl 14 (reg 3 0x2000 (onIntcon2 0x1000))).readW 3 = 0x2000 ∧
      13 ≤ (atIpl 14 (reg 3 0x2000 (onIntcon2 0x1000))).cpuIpl ∧
      (atIpl 14 (reg 3 0x2000 (onIntcon2 0x1000))).intcon2.getLsbD 13 = false) := by
  unfold State.overLimit; decide +kernel

theorem witness_EnvironmentEvents :
    (({ State.reset with log := { addr := true } } : State).log.addr = true ∧
      ({ Device.full with implIrq := 0 } : Device).implIrq.getLsbD 3 = false ∧
      (withSfrs State.reset).dev.sfrAt 0x0800 ≠ none) ∧
    (State.reset.implemented 245 = true ∧ State.reset.log = {} ∧ (atIpl 14 State.reset).cpuIpl < 15 ∧
      (atIpl 15 State.reset).cpuIpl = 15 ∧ State.reset.dev.extIrq[(4 : Fin 5).val]? = some 54) ∧
    State.reset.dev.sfrAt 0x1000 = none ∧ State.reset.dev.dataAt 0x1000 = true ∧
    ({ Device.full with implData := [⟨0x1000, 0xFFFF⟩] } : Device).dataAt 0x0FFF = false := by decide +kernel

theorem witness_StepKeepsInvariants :
    (State.reset.withFetchWord 24 0xFC0003).pcAligned ∧ (State.reset.withFetchWord 24 0xFC0003).memoryCanonical ∧
    (State.reset.withFetchWord 24 0xFC0003).reservedClear ∧ (State.reset.withFetchWord 24 0xFC0003).disiCounts ∧
    ∃ t, step (State.reset.withFetchWord 24 0xFC0003) = .next t := by
  refine ⟨?_, ?_, ?_, ?_, exists_of_next (p := fun _ => true) (by decide +kernel)⟩
  · unfold State.pcAligned; decide +kernel
  · unfold State.memoryCanonical; decide +kernel
  · unfold State.reservedClear; decide +kernel
  · unfold State.disiCounts; decide +kernel

theorem witness_Ipl3IsSetByTrapOrRetfie :
    (withWord 0x000006 0x000500 { State.reset with intcon1 := 0x0008 }).corcon.getLsbD 3 = false ∧
    next (step (withWord 0x000006 0x000500 { State.reset with intcon1 := 0x0008 })) (·.corcon.getLsbD 3) = true := by
  decide +kernel

end Sys2Proof.Tests
end

section
/-! SUPPORT. What the parts of a step do where the CPU is awake and nothing is deliverable, and the statement about the step made
of them (O5). -/

namespace Sys2Proof.Machine

open Sys2Proof

/-! ### Sequencing -/

theorem andThen_assoc (r : Result) (f g : State → Result) : andThen (andThen r f) g = andThen r fun t => andThen (f t) g := by
  cases r <;> rfl

/-! ### The parts of a step -/

/-- The log does not enter the choice among interrupts. -/
theorem State.bestIrq_fresh (s : State) (bound : Nat) : s.fresh.bestIrq bound = s.bestIrq bound := by
  induction bound with
  | zero => rfl
  | succ n ih =>
    have hdel : s.fresh.irqDeliverable n = s.irqDeliverable n := rfl
    have hipc (m : Nat) : s.fresh.ipcOf m = s.ipcOf m := rfl
    simp only [State.bestIrq, ih, hdel, hipc]

/-- The log does not enter arbitration (R109). -/
@[simp] theorem State.winner_fresh (s : State) : s.fresh.winner = s.winner := by
  have htrap : s.fresh.trapWinner = s.trapWinner := rfl
  simp only [State.winner, State.bestIrq_fresh, htrap]

/-- An awake CPU has nothing to wake from. -/
theorem State.wake_of_run {s : State} (h : s.mode = .run) : s.wake = s := by
  simp [State.wake, h]

/-- An awake CPU acts at the boundary on the winner sampled there; the count of DISICNT follows. -/
theorem State.cpuStep_of_run {s : State} (h : s.mode = .run) :
    s.cpuStep = andThen (s.tickGie.boundary s.winner) fun u => .next u.tickDisi := by
  simp only [State.cpuStep, State.wake_of_run h, if_pos h]

theorem State.boundary_none (s : State) : s.boundary none = State.runInstr { s with skid := 0 } := rfl

/-- The instruction fetched from an implemented address runs, and the end of a DO loop follows. -/
theorem State.runInstr_of_fetch {s : State} {i : Instr} (hp : s.dev.progAt s.pc = true) (hf : s.fetch = .next i) :
    s.runInstr = andThen (exec i s) fun t => .next (t.loopEnd s.pc) := by
  simp only [State.runInstr, if_pos hp, hf]

/-! ### The fetch -/

/-- An even address with no unencoded instruction yields what its words decode to. -/
theorem State.fetch_of_decode {s : State} {i : Instr} {rest : List Byte} (he : s.pc.getLsbD 0 = false)
    (hs : s.symbolicAt s.pc = none) (hd : decode s.fetchBytes = .ok (i, rest)) : s.fetch = .next i := by
  simp only [State.fetch, he, hs, hd, Bool.false_eq_true, if_false]

/-- A well-formed instruction without an encoding is fetched as it stands. -/
theorem State.fetch_of_symbolic {s : State} {i : Instr} (he : s.pc.getLsbD 0 = false)
    (hs : s.symbolicAt s.pc = some i) (hw : i.wf = true) : s.fetch = .next i := by
  simp only [State.fetch, he, hs, hw, Bool.false_eq_true, if_false, if_true]

/-! ### The step -/

/-- The state in which an instruction runs with nothing waiting: the boundary sampled, the log and the count of the wait empty. -/
def State.readied (s : State) : State := { s with gieLag := s.gieLag - 1, log := {}, skid := 0 }

@[simp] theorem State.readied_dev (s : State) : s.readied.dev = s.dev := rfl
@[simp] theorem State.readied_pc (s : State) : s.readied.pc = s.pc := rfl
@[simp] theorem State.readied_fetch (s : State) : s.readied.fetch = s.fetch := rfl

/-- With nothing deliverable the CPU's part of a step is an instruction from the readied state. -/
theorem State.cpuStep_of_quiet {s : State} (hm : s.mode = .run) (hw : s.winner = none) :
    s.fresh.cpuStep = andThen s.readied.runInstr fun u => .next u.tickDisi := by
  have hmode : s.fresh.mode = .run := hm
  rw [State.cpuStep_of_run hmode, State.winner_fresh, hw, State.boundary_none]
  rfl

/-- A step of a CPU that is ready to run executes the instruction fetched; the end of a DO loop, the count of DISICNT and the
environment follow in that order. -/
theorem step_of_fetch {s : State} {i : Instr} (hr : s.readyToRun) (hf : s.fetch = .next i) :
    step s = andThen (exec i s.readied) fun t => .next (t.loopEnd s.pc).tickDisi.environment := by
  obtain ⟨hmode, hwinner, hprog, -⟩ := hr
  have hrun : s.readied.runInstr = andThen (exec i s.readied) fun t => .next (t.loopEnd s.pc) :=
    State.runInstr_of_fetch (by simpa using hprog) (by simpa using hf)
  simp only [step, State.cpuStep_of_quiet hmode hwinner, hrun, andThen_assoc, andThen_next]

end Sys2Proof.Machine

namespace Sys2Proof.Proofs

open Sys2Proof Sys2Proof.Machine

/-- Settles O5: either standing form of the instruction is what the fetch yields, and the step executes what is fetched. -/
theorem stepRunsDecodedInstr : Obligations.StepRunsDecodedInstr := by
  intro s i hr hstands
  have ⟨_, _, _, heven⟩ := hr
  have hfetch : s.fetch = .next i := by
    rcases hstands with ⟨rest, hnone, hdecode⟩ | ⟨hsome, hwf⟩
    · exact State.fetch_of_decode heven hnone hdecode
    · exact State.fetch_of_symbolic heven hsome hwf
  exact step_of_fetch hr hfetch

end Sys2Proof.Proofs
end

section
/-! SUPPORT. The register forms that every step keeps, and the one bit that only traps and RETFIE set: what each part of a step
may make of the control registers is said once (`State.Orderly`), part by part in the order of the model, and the statements about
the step (O58, O59) are read off it. -/

namespace Sys2Proof.Machine

open Sys2Proof

/-! ### Reserved positions of a word -/

theorem or_and_eq_zero {a m r : Word} (ha : a &&& r = 0) (hm : m &&& r = 0) : (a ||| m) &&& r = 0 := by
  rw [BitVec.and_comm, BitVec.and_or_distrib_left, BitVec.and_comm r a, BitVec.and_comm r m, ha, hm]
  rfl

/-- A word outside a mask is outside every part of it. -/
theorem and_eq_zero_of_within {m r r' : Word} (hm : m &&& r = 0) (hr : r' &&& ~~~r = 0) : m &&& r' = 0 := by
  apply BitVec.eq_of_getLsbD_eq
  intro i hi
  have hmi := congrArg (fun v : Word => v.getLsbD i) hm
  have hri := congrArg (fun v : Word => v.getLsbD i) hr
  simp only [BitVec.getLsbD_and, BitVec.getLsbD_not, hi, decide_true] at hmi hri ⊢
  cases hb : r'.getLsbD i <;> simp_all

/-- A software write leaves the positions that hold no R/W bit as they are, where the register has no R/C bit (R98). -/
theorem writeBits_and_reserved {old mask value rw r : Word} (hr : rw &&& r = 0) :
    writeBits old mask value rw 0 &&& r = old &&& r := by
  apply BitVec.eq_of_getLsbD_eq
  intro i hi
  have hri := congrArg (fun v : Word => v.getLsbD i) hr
  simp only [BitVec.getLsbD_and, getLsbD_writeBits] at hri ⊢
  cases hb : r.getLsbD i <;> simp_all

theorem writeBits_and_eq_zero {old mask value rw r : Word} (hr : rw &&& r = 0) (ho : old &&& r = 0) :
    writeBits old mask value rw 0 &&& r = 0 := (writeBits_and_reserved hr).trans ho

theorem setBit_and_eq_zero {a r : Word} {i : Nat} {b : Bool} (ha : a &&& r = 0) (hr : r.getLsbD i = false) :
    setBit a i b &&& r = 0 := by
  apply BitVec.eq_of_getLsbD_eq
  intro j hj
  have haj := congrArg (fun v : Word => v.getLsbD j) ha
  simp only [BitVec.getLsbD_and, getLsbD_setBit] at haj ⊢
  by_cases hji : j = i
  · subst hji; simp [hr]
  · simpa [hji] using haj

theorem and_not_self (m : Word) : m &&& ~~~m = 0 := by simp

/-! ### The registers -/

/-- IPL3 after a write of CORCON: it can be cleared and not set (R13, R16). -/
theorem State.ipl3_writeCorcon (s : State) (mask value : Word) :
    (s.writeCorcon mask value).ipl3 = (s.ipl3 && !(mask.getLsbD 3 && !value.getLsbD 3)) := by
  refine (getLsbD_writeBits ..).trans ?_
  rw [show corconRw.getLsbD 3 = false by decide, show corconRc.getLsbD 3 = true by decide]
  simp only [Bool.and_false, Bool.and_true, Bool.false_eq_true, if_false]
  rfl

/-- Every device has the bits of INTCON1 that belong to no unit (R17). -/
theorem intcon1Bits_common (d : Device) {m : Word} (hm : m &&& ~~~0x805E = 0) : m &&& ~~~d.intcon1Bits = 0 := by
  refine and_eq_zero_of_within hm ?_
  unfold Device.intcon1Bits
  cases d.hasDsp <;> cases d.hasDma <;> decide

/-- A device with the DSP engine has the math error bits of INTCON1 (R17). -/
theorem intcon1Bits_dsp {d : Device} (hd : d.hasDsp = true) {m : Word} (hm : m &&& ~~~0xFFDE = 0) :
    m &&& ~~~d.intcon1Bits = 0 := by
  refine and_eq_zero_of_within hm ?_
  unfold Device.intcon1Bits
  rw [hd]
  cases d.hasDma <;> decide

/-- The bits of INTCON3, each with its unit (R19). -/
theorem getLsbD_intcon3Bits (d : Device) (i : Nat) : d.intcon3Bits.getLsbD i = decide ((i = 8 ∧ d.hasNvmAe = true) ∨
    (i = 6 ∧ d.hasUsb = true) ∨ (i = 5 ∧ d.hasDma = true) ∨ (i = 4 ∧ d.hasDsp = true) ∨ (i = 2 ∧ d.hasUsbPll = true) ∨
    (i = 0 ∧ d.hasApll = true)) := by
  have hbit {b : Bool} (k : Nat) (hk : k < 16) : (if b then 1#16 <<< k else 0).getLsbD i = decide (i = k ∧ b = true) := by
    cases b
    · simp
    · simp only [if_true, getLsbD_one_shift, and_true]
      exact decide_eq_decide.mpr ⟨And.left, fun h => ⟨h, h ▸ hk⟩⟩
  have h8 := hbit (b := d.hasNvmAe) 8 (by decide)
  have h6 := hbit (b := d.hasUsb) 6 (by decide)
  have h5 := hbit (b := d.hasDma) 5 (by decide)
  have h4 := hbit (b := d.hasDsp) 4 (by decide)
  have h2 := hbit (b := d.hasUsbPll) 2 (by decide)
  have h0 := hbit (b := d.hasApll) 0 (by decide)
  simp only [Device.intcon3Bits, BitVec.getLsbD_or, Bool.decide_or]
  rw [← h8, ← h6, ← h5, ← h4, ← h2, ← h0]
  simp only [Bool.or_assoc]
  rfl

/-- A flag is in a register that has its bit. -/
theorem flag_and_eq_zero {r m : Word} {i : Nat} (hi : r.getLsbD i = true) (hm : m = 1#16 <<< i) : m &&& ~~~r = 0 := by
  subst hm
  apply BitVec.eq_of_getLsbD_eq
  intro j hj
  simp only [BitVec.getLsbD_and, BitVec.getLsbD_not, getLsbD_one_shift]
  by_cases hji : j = i
  · subst hji; simp [hi]
  · simp [hji]

/-- Bit 3 of each nibble of IPCx is no source's (R23). -/
theorem priorityBits_reserved (d : Device) (k : Nat) : d.priorityBits k &&& 0x8888 = 0 := by
  unfold Device.priorityBits
  refine or_and_eq_zero (or_and_eq_zero (or_and_eq_zero ?_ ?_) ?_) ?_ <;> split <;> decide

/-- The flags that the log of a step stands for are in every device's INTCON1. -/
theorem StepLog.intcon1Bits_common (l : StepLog) : l.intcon1Bits &&& ~~~0x805E = 0 := by
  unfold StepLog.intcon1Bits
  cases l.osc <;> cases l.addr <;> cases l.stk <;> decide

/-! ### What a part of a step may make of the control registers -/

/-- State `t` is what a part of a step may make of `s`: the device is the same, the forms of the registers are kept (R34, R80), and
IPL3 is set only if it was or if the part may set it, as a trap's entry and RETFIE may (R16, R117). -/
structure State.Orderly (may : Prop) (s t : State) : Prop where
  dev : t.dev = s.dev
  reserved : s.reservedClear → t.reservedClear
  disi : s.disiCounts → t.disiCounts
  ipl3 : t.ipl3 = true → s.ipl3 = true ∨ may

/-- The fields that `State.Orderly` speaks of. -/
def State.control (s : State) :
    Device × Word × Word × Word × Word × Word × Vector Word 62 × Word × BitVec 14 :=
  (s.dev, s.corcon, s.intcon1, s.intcon2, s.intcon3, s.intcon4, s.ipc, s.inttreg, s.disicnt)

namespace State.Orderly

variable {may : Prop} {s t u : State}

theorem of_control (h : t.control = s.control) : Orderly may s t := by
  simp only [State.control, Prod.mk.injEq] at h
  obtain ⟨hdev, hcorcon, h1, h2, h3, h4, hipc, hinttreg, hcnt⟩ := h
  refine ⟨hdev, ?_, ?_, ?_⟩
  · unfold State.reservedClear; rw [hdev, hcorcon, h1, h2, h3, h4, hipc, hinttreg]; exact id
  · unfold State.disiCounts State.disi; rw [h2, hcnt]; exact id
  · unfold State.ipl3; rw [hcorcon]; exact .inl

theorem refl (s : State) : Orderly may s s := of_control rfl

theorem trans (h : Orderly may s t) (h' : Orderly may t u) : Orderly may s u where
  dev := h'.dev.trans h.dev
  reserved := h'.reserved ∘ h.reserved
  disi := h'.disi ∘ h.disi
  ipl3 hu := (h'.ipl3 hu).elim h.ipl3 .inr

theorem mono {may' : Prop} (h : Orderly may s t) (hm : may → may') : Orderly may' s t :=
  ⟨h.dev, h.reserved, h.disi, fun ht => (h.ipl3 ht).imp_right hm⟩

/-- A part that sets IPL3 in no case is one of every kind. -/
theorem any (h : Orderly False s t) : Orderly may s t := h.mono False.elim

theorem of_ite {c : Prop} [Decidable c] (ht : c → Orderly may s t) (hu : ¬c → Orderly may s u) :
    Orderly may s (if c then t else u) := by
  split
  · exact ht ‹_›
  · exact hu ‹_›

/-! #### One register changed -/

theorem with_corcon (s : State) {v : Word} (h14 : s.corcon.getLsbD 14 = false → v.getLsbD 14 = false)
    (h3 : v.getLsbD 3 = true → s.corcon.getLsbD 3 = true ∨ may) : Orderly may s { s with corcon := v } where
  dev := rfl
  reserved := fun ⟨h, rest⟩ => ⟨h14 h, rest⟩
  disi := id
  ipl3 := h3

theorem with_intcon1 (s : State) {v : Word}
    (h : s.intcon1 &&& ~~~s.dev.intcon1Bits = 0 → v &&& ~~~s.dev.intcon1Bits = 0) :
    Orderly may s { s with intcon1 := v } where
  dev := rfl
  reserved := fun ⟨hc, h1, rest⟩ => ⟨hc, h h1, rest⟩
  disi := id
  ipl3 := .inl

/-- INTCON2, whose DISI bit stays, or DISICNT with it (R80). -/
theorem with_intcon2 (s : State) {v : Word} {c : BitVec 14} (h : s.intcon2 &&& 0x1EE0 = 0 → v &&& 0x1EE0 = 0)
    (hc : s.disiCounts → v.getLsbD 14 = true → c ≠ 0) : Orderly may s { s with intcon2 := v, disicnt := c } where
  dev := rfl
  reserved := fun ⟨hc, h1, h2, rest⟩ => ⟨hc, h1, h h2, rest⟩
  disi := hc
  ipl3 := .inl

theorem with_intcon3 (s : State) {v : Word}
    (h : s.intcon3 &&& ~~~s.dev.intcon3Bits = 0 → v &&& ~~~s.dev.intcon3Bits = 0) :
    Orderly may s { s with intcon3 := v } where
  dev := rfl
  reserved := fun ⟨hc, h1, h2, h3, rest⟩ => ⟨hc, h1, h2, h h3, rest⟩
  disi := id
  ipl3 := .inl

theorem with_intcon4 (s : State) {v : Word} (h : s.intcon4 &&& 0xFFFE = 0 → v &&& 0xFFFE = 0) :
    Orderly may s { s with intcon4 := v } where
  dev := rfl
  reserved := fun ⟨hc, h1, h2, h3, h4, rest⟩ => ⟨hc, h1, h2, h3, h h4, rest⟩
  disi := id
  ipl3 := .inl

theorem with_inttreg (s : State) {v : Word} (h : v &&& 0xF000 = 0) : Orderly may s { s with inttreg := v } where
  dev := rfl
  reserved := fun ⟨hc, h1, h2, h3, h4, _, rest⟩ => ⟨hc, h1, h2, h3, h4, h, rest⟩
  disi := id
  ipl3 := .inl

theorem with_ipc (s : State) (k : Fin 62) {v : Word} (h : s.ipc[k] &&& 0x8888 = 0 → v &&& 0x8888 = 0) :
    Orderly may s { s with ipc := s.ipc.set k.val v } where
  dev := rfl
  reserved := fun ⟨hc, h1, h2, h3, h4, hi, hp⟩ => ⟨hc, h1, h2, h3, h4, hi, fun j => by
    by_cases hjk : k.val = j.val
    · simpa [hjk] using h (hp k)
    · simpa [hjk] using hp j⟩
  disi := id
  ipl3 := .inl

/-! #### Plain updates, hardware's flags, resets

Each operation as it extends what a part of a step has made of `s` so far, so that an instruction's proof follows its definition. -/

/-- Fields outside the control registers are no matter. -/
theorem same (h : Orderly may s t) (hu : u.control = t.control) : Orderly may s u := h.trans (of_control hu)

theorem fresh (h : Orderly may s t) : Orderly may s t.fresh := h.same rfl

theorem draw (h : Orderly may s t) : Orderly may s t.draw := h.same rfl

theorem setPc {a : PAddr} (h : Orderly may s t) : Orderly may s (t.setPc a) := h.same rfl

theorem advance (h : Orderly may s t) : Orderly may s t.advance := h.same rfl

theorem execFlags (h : Orderly may s t) : Orderly may s t.execFlags := h.same rfl

theorem orIntcon1 {m : Word} (h : Orderly may s t) (hm : m &&& ~~~t.dev.intcon1Bits = 0) :
    Orderly may s (t.orIntcon1 m) :=
  h.trans (with_intcon1 t fun h1 => or_and_eq_zero h1 hm)

theorem orIntcon3 {m : Word} (h : Orderly may s t) (hm : m &&& ~~~t.dev.intcon3Bits = 0) :
    Orderly may s (t.orIntcon3 m) :=
  h.trans (with_intcon3 t fun h3 => or_and_eq_zero h3 hm)

theorem stackError (h : Orderly may s t) : Orderly may s t.stackError :=
  (h.orIntcon1 (m := 0x0004) (intcon1Bits_common t.dev (by decide))).same rfl

theorem raiseHard {k : HardTrap} (h : Orderly may s t) : Orderly may s (t.raiseHard k) := by
  cases k with
  | osc => exact (h.orIntcon1 (m := 0x0002) (intcon1Bits_common t.dev (by decide))).same rfl
  | addr => exact (h.orIntcon1 (m := 0x0008) (intcon1Bits_common t.dev (by decide))).same rfl
  | gen => exact (h.trans (with_intcon4 t fun h4 => or_and_eq_zero (m := 0x0001) h4 (by decide))).same rfl

theorem reassert (h : Orderly may s t) : Orderly may s t.reassert :=
  (h.orIntcon1 (intcon1Bits_common t.dev t.log.intcon1Bits_common)).trans
    (with_intcon4 _ fun h4 => or_and_eq_zero h4 (by cases t.log.gen <;> decide))

theorem deviceReset {c : ResetCause} (h : Orderly may s t) : Orderly may s (t.deviceReset c) :=
  h.trans {
    dev := rfl
    reserved := fun _ => by simp [State.reservedClear]
    disi := fun _ => by simp [State.disiCounts, State.disi]
    ipl3 := by simp [State.ipl3] }

theorem settle {ipl : Nat} (h : Orderly may s t) : Orderly may s (t.settle ipl) := by
  rcases State.settle_cases ipl t with e | ⟨-, e⟩ <;> rw [e]
  · exact h.reassert
  · exact h.deviceReset

end State.Orderly

end Sys2Proof.Machine
end

section
/-! SUPPORT. What the shared operations may make of the control registers: stack checks, register writes, software writes of
special function registers, stores, pushes and pops, entry and return. -/

namespace Sys2Proof.Machine.State.Orderly

open Sys2Proof Sys2Proof.Machine

variable {may : Prop} {s t u : State}

/-! ### Checks and registers -/

theorem stackCheck {ea : Word} {c : Bool} (h : Orderly may s t) : Orderly may s (t.stackCheck ea c) :=
  of_ite (fun _ => h.stackError) fun _ => h

theorem underflowCheck (h : Orderly may s t) : Orderly may s t.underflowCheck :=
  of_ite (fun _ => h.stackError) fun _ => h

theorem underflowAfter {used : Bool} {old : Word} (h : Orderly may s t) : Orderly may s (t.underflowAfter used old) :=
  of_ite (fun _ => h) fun _ => h.underflowCheck

theorem pointerCheck {p : WReg} {ea : Word} {c : Bool} (h : Orderly may s t) : Orderly may s (t.pointerCheck p ea c) :=
  of_ite (fun _ => h.stackCheck) fun _ => h

theorem operandCheck {op : Operand} (h : Orderly may s t) : Orderly may s (t.operandCheck op) := by
  cases op with
  | direct w => exact h
  | indirect w => exact h.pointerCheck
  | paged w => exact h.pointerCheck

theorem dwCheck {op : DwOperand} (h : Orderly may s t) : Orderly may s (t.dwCheck op) := by
  cases op with
  | pair p => exact h
  | indirect w => exact h.pointerCheck.pointerCheck
  | paged w => exact h.pointerCheck.pointerCheck

/-- A hard trap condition raised where some condition holds. -/
theorem raiseHard_if {c : Prop} [Decidable c] {k : HardTrap} (h : Orderly may s t) :
    Orderly may s (if c then t.raiseHard k else t) :=
  of_ite (fun _ => h.raiseHard) fun _ => h

theorem writeW {i : WReg} {v : Word} (h : Orderly may s t) : Orderly may s (t.writeW i v) :=
  h.same (by simp [State.control])

theorem freeRegs {is : List WReg} (h : Orderly may s t) : Orderly may s (t.freeRegs is) :=
  h.same (by simp [State.control])

theorem setAcc {acc : AccSel} {v : Acc} (h : Orderly may s t) : Orderly may s (t.setAcc acc v) :=
  h.same (by simp [State.control])

theorem setIfs {n : Nat} (h : Orderly may s t) : Orderly may s (t.setIfs n) := h.same (by simp [State.control])

theorem polarityFlags {c d : Word} {ns : List Nat} {k : Nat} (h : Orderly may s t) :
    Orderly may s (t.polarityFlags c d ns k) := by
  rw [State.polarityFlags_frame]
  exact h.same rfl

/-- CORCON.SFA written by hardware leaves CORCON's other bits. -/
theorem setSfa {b : Bool} (h : Orderly may s t) : Orderly may s (t.setSfa b) :=
  h.trans (with_corcon t (by simp) (by simpa using .inl))

/-- CORCON.DL written by hardware leaves CORCON's other bits. -/
theorem setDl {v : BitVec 3} (h : Orderly may s t) : Orderly may s (t.setDl v) :=
  h.trans (with_corcon t (by simp) (by simpa using .inl))

/-! ### Software writes of special function registers -/

/-- IPL3 is an R/C bit, and bit 14 of CORCON no bit at all (R13, R16). -/
theorem writeCorcon (mask value : Word) (s : State) : Orderly may s (s.writeCorcon mask value) :=
  with_corcon s (by simp +contextual [corconRw]) fun h3 =>
    .inl (Bool.and_eq_true_iff.mp ((s.ipl3_writeCorcon mask value).symm.trans h3)).1

/-- A write of DISICNT: DISI stays 1 only with the count written, which is then not 0 (R80 (c), (d)). -/
theorem writeDisicnt (mask value : Word) (s : State) : Orderly may s (s.writeDisicnt mask value) := by
  unfold State.writeDisicnt
  refine of_ite (fun _ => refl s) fun _ => of_ite (fun _ => ?_) fun hdisi => ?_
  · refine (with_intcon2 s (fun h2 => ?_) fun _ hv hc => ?_).same rfl
    · split
      · exact setBit_and_eq_zero h2 (by decide)
      · exact h2
    · rw [if_pos hc] at hv; simp at hv
  · exact (with_intcon2 s id fun _ hv => absurd hv hdisi).same rfl

/-- A write of INTCON2 leaves DISI, which is not among its R/W bits here (R98, D11). -/
theorem writeIntcon2 (mask value : Word) (s : State) : Orderly may s (s.writeIntcon2 mask value) := by
  have hvalue : Orderly may s { s with intcon2 := writeBits s.intcon2 mask value intcon2Rw 0 } :=
    with_intcon2 s (writeBits_and_eq_zero (by decide)) fun hd h14 => hd (by simpa [State.disi, intcon2Rw] using h14)
  have hgie (lag n : Nat) : Orderly may s { s with
      intcon2 := writeBits s.intcon2 mask value intcon2Rw 0, gieLag := lag, free := n } := hvalue.same rfl
  exact of_ite (fun _ => (hgie ..).raiseHard_if) fun _ => (hgie ..).raiseHard_if.draw.polarityFlags

/-- A software write of any special function register (R98, R34). -/
theorem writeSfr {r : Sfr} {mask value : Word} (h : Orderly may s t) (hu : t.writeSfr r mask value = .next u) :
    Orderly may s u := by
  refine h.trans ?_
  cases r <;> simp only [State.writeSfr, Host.Outcome.next.injEq] at hu
  case corcon => subst hu; exact writeCorcon ..
  case intcon1 => subst hu; exact (with_intcon1 t (writeBits_and_eq_zero (and_not_self _))).same rfl
  case intcon2 =>
    split at hu
    · cases hu
    · cases hu; exact writeIntcon2 ..
  case intcon3 => subst hu; exact with_intcon3 t (writeBits_and_eq_zero (and_not_self _))
  case intcon4 => subst hu; exact (with_intcon4 t (writeBits_and_eq_zero (by decide))).same rfl
  case ipc k => subst hu; exact with_ipc t k (writeBits_and_eq_zero (priorityBits_reserved ..))
  case disicnt => subst hu; exact writeDisicnt ..
  all_goals (subst hu; exact of_control rfl)

/-! ### Stores and the stack -/

theorem storeWord {a v : Word} (h : Orderly may s t) (hu : t.storeWord a v = .next u) : Orderly may s u := by
  rcases State.storeWord_cases a v t with ⟨r, -, e⟩ | ⟨-, e⟩ <;> rw [e] at hu
  · exact h.writeSfr hu
  · cases hu; exact h.same rfl

theorem storeByte {a : Word} {v : Byte} (h : Orderly may s t) (hu : t.storeByte a v = .next u) : Orderly may s u := by
  rcases State.storeByte_cases a v t with ⟨r, mask, value, -, e⟩ | ⟨-, e⟩ <;> rw [e] at hu
  · exact h.writeSfr hu
  · cases hu; exact h.same rfl

theorem storeBit {a : Word} {i : Fin 16} {b : Bool} (h : Orderly may s t) (hu : t.storeBit a i b = .next u) :
    Orderly may s u := by
  unfold State.storeBit at hu
  split at hu
  · exact h.writeSfr hu
  · cases hu; exact h.same rfl

theorem push16 {v : Word} (h : Orderly may s t) (hu : t.push16 v = .next u) : Orderly may s u := by
  obtain ⟨x, hx, hx'⟩ := andThen_eq_next.mp hu
  cases hx'
  unfold State.pushStore at hx
  split at hx
  · cases hx; exact h.stackCheck.raiseHard.same rfl
  · exact (h.stackCheck.storeWord hx).same rfl

theorem pushPair {lo hi : Word} (h : Orderly may s t) (hu : t.pushPair lo hi = .next u) : Orderly may s u := by
  unfold State.pushPair at hu
  split at hu
  · cases hu
    exact h.stackCheck.stackCheck.raiseHard.same rfl
  · obtain ⟨x, hx, hx'⟩ := andThen_eq_next.mp hu
    exact (h.push16 hx).push16 hx'

theorem pop16 (h : Orderly may s t) : Orderly may s t.pop16 := by
  have hw : Orderly may s { t with w15 := t.w15 - 2 } := h.same rfl
  exact of_ite (fun _ => hw.stackCheck.raiseHard.draw) fun _ => hw.stackCheck

/-! ### Entry and return -/

/-- An entry sets IPL3 where it is a trap's, and not where it is an interrupt's (R117). -/
theorem enterPriority {e : Exc} {level : Nat} (h : Orderly (∃ tr, e = .trap tr) s t) :
    Orderly (∃ tr, e = .trap tr) s (t.enterPriority e level) := by
  cases e with
  | irq n => exact h.same rfl
  | trap tr =>
    have hset := with_corcon (may := ∃ tr', Exc.trap tr = .trap tr') (v := setBit t.corcon 3 true) t (by simp)
      fun _ => .inr ⟨tr, rfl⟩
    exact (h.trans hset).same rfl

theorem latch {e : Exc} {level : Nat} (h : Orderly may s t) : Orderly may s (t.latch e level) := by
  have hres (l : BitVec 4) (v : Byte) : (0#4 ++ l ++ v) &&& 0xF000 = (0 : Word) := by
    apply BitVec.eq_of_getLsbD_eq
    intro i hi
    simp only [BitVec.getLsbD_and, BitVec.getLsbD_append]
    interval_cases i <;> simp
  cases e with
  | irq n => exact h.trans (with_inttreg t (hres _ _))
  | trap tr => exact (h.trans (with_inttreg t (hres _ _))).same rfl

theorem selectCtx {e : Exc} {level : Nat} (h : Orderly may s t) : Orderly may s (t.selectCtx e level) := by
  rw [State.selectCtx_frame]
  exact h.same rfl

theorem enterAfterPush {e : Exc} {level : Nat} {target : PAddr} (h : Orderly (∃ tr, e = .trap tr) s t) :
    Orderly (∃ tr, e = .trap tr) s (t.enterAfterPush e level target) := by
  have hsfa : Orderly (∃ tr, e = .trap tr) s (t.setSfa false) := h.setSfa
  exact hsfa.enterPriority.latch.selectCtx.underflowCheck.same rfl

/-- Taking an exception sets IPL3 only where it is a trap (R16, R117). -/
theorem takeException {e : Exc} (hu : s.takeException e = .next u) : Orderly (∃ tr, e = .trap tr) s u := by
  obtain ⟨target, t1, t2, -, h1, h2, rfl⟩ := State.takeException_cases hu
  exact (((refl s).fresh.push16 h1).push16 h2).enterAfterPush.settle

theorem restoreCtx (h : Orderly may s t) : Orderly may s t.restoreCtx := by
  rw [State.restoreCtx_frame]
  exact h.same rfl

/-- The return from an exception takes IPL3 from the frame (R81). -/
theorem exceptionReturn (s : State) : Orderly True s s.exceptionReturn := by
  have hunstack (w0 w1 : Word) {x : State} (h : Orderly True s x) : Orderly True s (x.unstack w0 w1) :=
    (h.trans (with_corcon (v := setBit (setBit x.corcon 3 (w1.getLsbD 7)) 2 (w0.getLsbD 0)) x (by simp)
      fun _ => .inr trivial)).same rfl
  exact (hunstack _ _ (refl s).fresh.pop16.pop16).restoreCtx.underflowCheck.settle

end Sys2Proof.Machine.State.Orderly
end

section
/-! SUPPORT. What every instruction, every event of the environment and so every step may make of the control registers, and the
statements read off it (O58 to O60). -/

namespace Sys2Proof.Machine

open Sys2Proof

/-! ### Arbitration -/

/-- The mode does not enter arbitration, so what the CPU wakes from does not. -/
theorem State.winner_wake (s : State) : s.wake.winner = s.winner := by
  have hbest (m : Mode) (bound : Nat) : State.bestIrq { s with mode := m } bound = s.bestIrq bound := by
    induction bound with
    | zero => rfl
    | succ n ih =>
      have hdel : State.irqDeliverable { s with mode := m } n = s.irqDeliverable n := rfl
      have hipc (k : Nat) : State.ipcOf { s with mode := m } k = s.ipcOf k := rfl
      simp only [State.bestIrq, ih, hdel, hipc]
  rw [State.wake_frame]
  have htrap (m : Mode) : State.trapWinner { s with mode := m } = s.trapWinner := rfl
  simp only [State.winner, hbest, htrap]

end Sys2Proof.Machine

namespace Sys2Proof.Machine.State.Orderly

open Sys2Proof Sys2Proof.Machine

variable {may : Prop} {s t u : State}

/-! ### Control transfers and loops -/

theorem transfer (target : PAddr) (s : State) : Orderly may s (s.transfer target) := by
  have hraise : Orderly may s (if s.fresh.dev.progAt target then s.fresh else s.fresh.raiseHard .addr) :=
    of_ite (fun _ => (refl s).fresh) fun _ => (refl s).fresh.raiseHard
  exact hraise.setPc.settle

theorem execRet (h : execRet s = .next t) : Orderly may s t := by
  cases h
  have hreturn (a : PAddr) (b : Bool) (n : Nat) {x : State} (h : Orderly may s x) :
      Orderly may s { x with corcon := setBit x.corcon 2 b, pc := a, free := n } := (h.setSfa (b := b)).same rfl
  exact (hreturn _ _ _ (refl s).fresh.pop16.pop16).underflowCheck.settle

theorem pushLoop (count : Word) (stop : PAddr) (s : State) : Orderly may s (s.pushLoop count stop) := by
  unfold State.pushLoop
  split <;> exact setDl (of_control rfl)

theorem execDoLoop {count : Word} {stop : PAddr} (h : execDoLoop count stop s = .next t) : Orderly may s t := by
  unfold Machine.execDoLoop at h
  split at h
  · cases h
  · rename_i hdsp
    have hd : s.dev.hasDsp = true := by simpa using hdsp
    split at h <;> cases h
    · exact ((refl s).orIntcon3 (flag_and_eq_zero (i := 4) (by simp [getLsbD_intcon3Bits, hd]) rfl)).advance
    · exact (pushLoop count stop s).execFlags.advance

theorem loopEnd {a : PAddr} (h : Orderly may s t) : Orderly may s (t.loopEnd a) := by
  unfold State.loopEnd
  split
  · exact of_ite (fun _ => of_ite (fun _ => h.same rfl) fun _ => setDl (h.same rfl)) fun _ => h
  · exact h

theorem skipNext (h : Orderly may s t) : Orderly may s t.skipNext := h.same rfl

theorem testSkip (want : Bool) (bit : Fin 16) (op : Operand) (s : State) : Orderly may s (s.testSkip want bit op) := by
  have hcheck : Orderly may s (s.fresh.operandCheck op) := (refl s).fresh.operandCheck
  refine of_ite (fun _ => hcheck.raiseHard.advance.underflowAfter.settle) fun _ => ?_
  have hflags := (hcheck.raiseHard_if (c := s.fresh.badRead .word op = true) (k := .addr)).draw.execFlags
  exact (of_ite (fun _ => hflags.skipNext) fun _ => hflags.advance).underflowAfter.settle

/-! ### The math error sources -/

theorem execSftac {acc : AccSel} {amount : ShiftAmount} (h : execSftac acc amount s = .next t) : Orderly may s t := by
  unfold Machine.execSftac at h
  split at h
  · cases h
  · rename_i hdsp
    split at h <;> cases h
    · exact ((refl s).orIntcon1 (intcon1Bits_dsp (by simpa using hdsp) (m := 0x0090) (by decide))).advance
    · exact (refl s).setAcc.draw.execFlags.advance

theorem execDiv {divisor : WReg} {first : Bool} {dsts : List WReg} (h : execDiv divisor first dsts s = .next t) :
    Orderly may s t := by
  cases h
  have hcheck : Orderly may s (if (first && (s.fresh.readW divisor == 0)) = true then s.fresh.divideError else s.fresh) :=
    of_ite (fun _ => (refl s).fresh.orIntcon1 (intcon1Bits_common s.dev (m := 0x0050) (by decide)))
      fun _ => (refl s).fresh
  exact hcheck.freeRegs.execFlags.advance.underflowAfter

/-- An overflow event sets flags that a device with the DSP engine has (R135). -/
theorem overflow {acc : AccSel} (h : Orderly may s t) (hd : t.dev.hasDsp = true) : Orderly may s (t.overflow acc) := by
  have hor {c : Prop} [Decidable c] {m : Word} (hm : m &&& ~~~0xFFDE = 0) :
      Orderly may s { t with intcon1 := if c then t.intcon1 ||| m else t.intcon1 } :=
    h.trans <| with_intcon1 t fun h1 => by
      split
      · exact or_and_eq_zero h1 (intcon1Bits_dsp hd hm)
      · exact h1
  cases acc with
  | a => exact (hor (m := 0x4010) (by decide)).same rfl
  | b => exact (hor (m := 0x2010) (by decide)).same rfl

/-- So does a catastrophic overflow event (R136). -/
theorem catastrophic {acc : AccSel} (h : Orderly may s t) (hd : t.dev.hasDsp = true) :
    Orderly may s (t.catastrophic acc) := by
  refine of_ite (fun _ => h.orIntcon1 (intcon1Bits_dsp hd ?_)) fun _ => h
  cases acc <;> decide

theorem macResult {acc : AccSel} (h : Orderly may s t) (hd : t.dev.hasDsp = true) : Orderly may s (t.macResult acc) := by
  have hset : Orderly may s (t.setAcc acc (Config.freeAcc t.free)).draw.execFlags := h.setAcc.draw.execFlags
  have hover {c : Prop} [Decidable c] {x : State} (hx : Orderly may s x) (hdev : x.dev = t.dev) :
      Orderly may s (if c then x.overflow acc else x) :=
    of_ite (fun _ => hx.overflow (by rw [hdev, hd])) fun _ => hx
  have hcat {c : Prop} [Decidable c] {x : State} (hx : Orderly may s x) :
      Orderly may s (if c then x.catastrophic acc else x) :=
    of_ite (fun _ => hx.catastrophic (by rw [hx.dev, ← h.dev, hd])) fun _ => hx
  exact (hcat (hover hset (by simp))).draw.draw

theorem execMacClass {acc : AccSel} {x y : WReg} {dsts : List WReg} (h : execMacClass acc x y dsts s = .next t) :
    Orderly may s t := by
  unfold Machine.execMacClass at h
  split at h
  · cases h
  · rename_i hdsp
    cases h
    have hfetch := ((refl (may := may) s).fresh.pointerCheck (p := x) (ea := s.readW x) (c := false)).pointerCheck
      (p := y) (ea := s.readW y) (c := false) |>.raiseHard_if
        (c := (s.fresh.badX (s.readW x) || s.fresh.badY (s.readW y)) = true) (k := .addr)
    exact (hfetch.macResult (by rw [hfetch.dev]; simpa using hdsp)).freeRegs.advance.underflowAfter.settle

/-! ### Data accesses -/

theorem finish {used : Bool} {x : State} (h : Orderly may s t) : Orderly may s (x.finish used t) :=
  h.advance.underflowAfter.settle

theorem execBitManip {size : Size} {bit : Fin 16} {op : Operand} (h : execBitManip size bit op s = .next t) :
    Orderly may s t := by
  have hcheck : Orderly may s (s.fresh.operandCheck op) := (refl s).fresh.operandCheck
  unfold Machine.execBitManip at h
  dsimp only at h
  split at h
  · cases h; exact hcheck.raiseHard.finish
  · cases op with
    | direct w => cases h; exact hcheck.writeW.draw.execFlags.finish
    | indirect w =>
      dsimp only at h
      split at h
      · cases h; exact hcheck.raiseHard.execFlags.finish
      · obtain ⟨u, hu, ht⟩ := andThen_eq_next.mp h
        cases ht; exact (hcheck.draw.execFlags.storeBit hu).finish
    | paged w =>
      dsimp only at h
      split at h <;> cases h
      exact hcheck.raiseHard.execFlags.finish

theorem dwStore {dst : DwOperand} {lo hi : Word} (h : Orderly may s t) (hu : t.dwStore dst lo hi = .next u) :
    Orderly may s u := by
  cases dst with
  | pair p => cases hu; exact h.writeW.writeW
  | indirect w =>
    obtain ⟨x, hx, hx'⟩ := andThen_eq_next.mp hu
    exact (h.storeWord hx).storeWord hx'
  | paged w => cases hu

theorem execMovD {src dst : DwOperand} (h : execMovD src dst s = .next t) : Orderly may s t := by
  have hraise {c : Prop} [Decidable c] : Orderly may s (if c then ((s.fresh.dwCheck src).dwCheck dst).raiseHard .addr
      else (s.fresh.dwCheck src).dwCheck dst).draw.draw.execFlags :=
    (refl s).fresh.dwCheck.dwCheck.raiseHard_if.draw.draw.execFlags
  unfold Machine.execMovD at h
  dsimp only at h
  split at h
  · cases h; exact hraise.finish
  · obtain ⟨u, hu, ht⟩ := andThen_eq_next.mp h
    cases ht; exact (hraise.dwStore hu).finish

theorem execTblrd {ptr dst : WReg} (h : execTblrd ptr dst s = .next t) : Orderly may s t := by
  cases h; exact (refl s).fresh.pointerCheck.writeW.draw.execFlags.finish

theorem execSfrWrite {reg : Sfr} {mask value : Word} (h : execSfrWrite reg mask value s = .next t) :
    Orderly may s t := by
  obtain ⟨u, hu, ht⟩ := andThen_eq_next.mp h
  cases ht; exact ((refl s).fresh.writeSfr hu).finish

/-! ### Accesses through W15 -/

theorem finishStack {x : State} (h : Orderly may s t) : Orderly may s (x.finishStack t) :=
  h.advance.underflowCheck.settle

theorem stackLoad {size : Size} {ea : Word} {dst : WReg} {src : State} (h : Orderly may s t) :
    Orderly may s (t.stackLoad size ea dst src) := by
  refine of_ite (fun _ => h.raiseHard.writeW.draw) fun _ => ?_
  cases size with
  | byte => exact h.writeW.draw
  | word => exact h.writeW

theorem stackStore {size : Size} {ea v : Word} (h : Orderly may s t) (hu : t.stackStore size ea v = .next u) :
    Orderly may s u := by
  unfold State.stackStore at hu
  split at hu
  · cases hu; exact h.raiseHard
  · cases size with
    | byte => exact h.storeByte hu
    | word => exact h.storeWord hu

theorem stackCall {target : BitVec 23} (h : Orderly may s t) (hu : t.stackCall target = .next u) : Orderly may s u := by
  obtain ⟨x, hx, hx'⟩ := andThen_eq_next.mp hu
  cases hx'; exact (h.draw.pushPair hx).setSfa.setPc.underflowCheck.settle

theorem stackLink {lit14 : BitVec 14} (h : Orderly may s t) (hu : t.stackLink lit14 = .next u) : Orderly may s u := by
  obtain ⟨x, hx, hx'⟩ := andThen_eq_next.mp hu
  have hw : Orderly may s (x.writeW 14 x.w15) := (h.draw.push16 hx).writeW
  cases hx'; exact finishStack (setSfa (hw.same rfl))

theorem stackUnlink (h : Orderly may s t) : Orderly may s t.stackUnlink := by
  have hw : Orderly may s { t with w15 := t.readW 14 } := h.same rfl
  exact hw.pop16.writeW.draw.setSfa.finishStack

theorem execW15Access {op : StackOp} (h : execW15Access op s = .next t) : Orderly may s t := by
  have hs : Orderly may s s.fresh := (refl s).fresh
  cases op with
  | push src =>
    obtain ⟨u, hu, ht⟩ := andThen_eq_next.mp h
    cases ht; exact (hs.push16 hu).finishStack
  | pop dst => cases h; exact hs.pop16.writeW.finishStack
  | load size disp dst => cases h; exact hs.stackCheck.stackLoad.finishStack
  | store size disp src =>
    obtain ⟨u, hu, ht⟩ := andThen_eq_next.mp h
    cases ht; exact (hs.stackCheck.stackStore hu).finishStack
  | call target => exact hs.stackCall h
  | link lit14 => exact hs.stackLink h
  | unlink => cases h; exact hs.stackUnlink

/-! ### Every instruction -/

/-- DISI sets INTCON2.DISI exactly with a count that is not 0 (R80). -/
theorem execDisi {lit14 : BitVec 14} (h : execDisi lit14 s = .next t) : Orderly may s t := by
  cases h
  refine (with_intcon2 s (fun h2 => setBit_and_eq_zero h2 (by decide)) fun _ h14 => ?_).same rfl
  simpa using h14

/-- Every instruction keeps the forms of the registers, and RETFIE alone may set IPL3 (R16, R34, R80). -/
theorem exec {i : Instr} (h : exec i s = .next t) : Orderly (i = .retfie) s t := by
  cases i with
  | nop => cases h; exact (refl s).advance
  | disi lit14 => exact execDisi h
  | retfie => cases h; exact (exceptionReturn s).mono fun _ => rfl
  | ret => exact execRet h
  | reset => cases h; exact (refl s).deviceReset
  | pwrsav m => cases h; exact of_control rfl
  | goto target => cases h; exact transfer ..
  | bra slit16 => cases h; exact transfer ..
  | sftac acc amount => exact execSftac h
  | div divisor first dsts => exact execDiv h
  | repeatLoop => cases h
  | doLoop count stop => exact execDoLoop h
  | macClass acc x y dsts => exact execMacClass h
  | bitManip size bit op => exact execBitManip h
  | movD src dst => exact execMovD h
  | tblrd ptr dst => exact execTblrd h
  | btsc bit op => cases h; exact testSkip ..
  | btss bit op => cases h; exact testSkip ..
  | sfrWrite reg mask value => exact execSfrWrite h
  | w15Access op => exact execW15Access h

/-! ### The environment -/

/-- A bus agent sets its own unit's flag or writes data memory (R66). -/
theorem agentWrite {a : Word} {v : Byte} {flag : Word} (hf : flag &&& ~~~s.dev.intcon3Bits = 0) :
    Orderly may s (s.agentWrite a v flag) :=
  of_ite (fun _ => refl s) fun _ => of_ite (fun _ => of_control rfl) fun _ => (refl s).orIntcon3 hf

theorem pinEdge (k : Fin 5) (level : Bool) (s : State) : Orderly may s (s.pinEdge k level) := by
  have hpin : Orderly may s { s with pins := s.pins.set k.val level } := of_control rfl
  refine of_ite (fun _ => ?_) fun _ => hpin
  split
  · exact hpin.setIfs
  · exact hpin

/-- A unit's flag is raised only on a device that has the unit. -/
theorem event (e : EnvEvent) (s : State) : Orderly may s (s.event e) := by
  have hflag {unit : Bool} {m : Word} (i : Nat) (hi : unit = true → s.dev.intcon3Bits.getLsbD i = true)
      (hm : m = 1#16 <<< i) : Orderly may s (if unit then s.orIntcon3 m else s) :=
    of_ite (fun hunit => (refl s).orIntcon3 (flag_and_eq_zero (hi hunit) hm)) fun _ => refl s
  have hagent {unit : Bool} {a : Word} {v : Byte} {m : Word} (i : Nat)
      (hi : unit = true → s.dev.intcon3Bits.getLsbD i = true) (hm : m = 1#16 <<< i) :
      Orderly may s (if unit then s.agentWrite a v m else s) :=
    of_ite (fun hunit => agentWrite (flag_and_eq_zero (hi hunit) hm)) fun _ => refl s
  have hdmac (hd : s.dev.hasDma = true) : s.dev.intcon1Bits.getLsbD 5 = true := by simp [Device.intcon1Bits, hd]
  cases e with
  | irq n => exact (refl s).setIfs
  | oscFail => exact (refl s).raiseHard.settle
  | dmaCollision => exact of_ite (fun hd => (refl s).orIntcon1 (flag_and_eq_zero (hdmac hd) rfl)) fun _ => refl s
  | dmaWrite a v => exact hagent 5 (fun hd => by simp [getLsbD_intcon3Bits, hd]) rfl
  | dmaAddrError => exact hflag 5 (fun hd => by simp [getLsbD_intcon3Bits, hd]) rfl
  | usbWrite a v => exact hagent 6 (fun hd => by simp [getLsbD_intcon3Bits, hd]) rfl
  | usbAddrError => exact hflag 6 (fun hd => by simp [getLsbD_intcon3Bits, hd]) rfl
  | nvmAddrError => exact hflag 8 (fun hd => by simp [getLsbD_intcon3Bits, hd]) rfl
  | usbPllUnlock => exact hflag 2 (fun hd => by simp [getLsbD_intcon3Bits, hd]) rfl
  | apllUnlock => exact hflag 0 (fun hd => by simp [getLsbD_intcon3Bits, hd]) rfl
  | pin k level => exact pinEdge k level s
  | deviceReset => exact (refl s).deviceReset (c := .other)

theorem events (es : List EnvEvent) (s : State) : Orderly may s (s.events es) :=
  State.events_keeps (P := Orderly may s) (fun x e hx => hx.trans (event e x)) es s (refl s)

theorem environment (h : Orderly may s t) : Orderly may s t.environment := by
  have hscript : Orderly may s { t with env := t.env.tail } := h.same rfl
  exact (hscript.trans (events _ _)).fresh

/-! ### The step -/

/-- The count of DISICNT ends the disable where it reaches 0 (R80, D10). -/
theorem tickDisi (h : Orderly may s t) : Orderly may s t.tickDisi := by
  refine h.trans (of_ite (fun _ => ?_) fun _ => refl t)
  refine (with_intcon2 t (fun h2 => ?_) fun _ hv hc => ?_).same rfl
  · split
    · exact setBit_and_eq_zero h2 (by decide)
    · exact h2
  · have hlt : t.disicnt.toNat - (1 + Config.extraCycles t.free) < 2 ^ 14 := by omega
    have hzero : t.disicnt.toNat - (1 + Config.extraCycles t.free) = 0 := by
      have := congrArg BitVec.toNat hc
      rwa [BitVec.toNat_ofNat, Nat.mod_eq_of_lt hlt] at this
    rw [if_pos hzero] at hv
    simp at hv

/-- An instruction that runs in a step, or the address error of an unimplemented program address. -/
theorem runInstr (h : s.runInstr = .next t) : Orderly (s.fetch = .next .retfie) s t := by
  rcases State.runInstr_cases h with ⟨-, rfl⟩ | ⟨-, i, u, hf, hu, rfl⟩
  · exact (refl s).fresh.raiseHard.settle
  · exact ((exec hu).mono fun hi => by rw [hf, hi]).loopEnd

/-- At a boundary the winner is taken or the instruction there runs, whatever counts of the wait go with it. -/
theorem boundary {e : Option Exc} (h : s.boundary e = .next t) :
    Orderly ((∃ tr, e = some (.trap tr)) ∨ s.fetch = .next .retfie) s t := by
  rcases State.boundary_cases h with ⟨skid, bound, free, hr⟩ | ⟨x, free, rfl, hx⟩
  · have hcounts : Orderly (s.fetch = .next .retfie) s { s with skid := skid, skidBound := bound, free := free } :=
      of_control rfl
    exact (hcounts.trans (runInstr hr)).mono .inr
  · have hcounts : Orderly (∃ tr, x = .trap tr) s { s with free := free } := of_control rfl
    exact (hcounts.trans (takeException hx)).mono fun ⟨tr, htr⟩ => .inl ⟨tr, congrArg some htr⟩

/-- A step keeps the forms of the registers, and may set IPL3 only where a trap is the winner or RETFIE stands at the PC. -/
theorem step (h : step s = .next t) :
    Orderly ((∃ tr, s.winner = some (.trap tr)) ∨ s.fetch = .next .retfie) s t := by
  obtain ⟨u, hu, ht⟩ := andThen_eq_next.mp h
  cases ht
  refine environment ?_
  rcases State.cpuStep_cases hu with ⟨rfl, -⟩ | ⟨v, -, hb, rfl⟩
  · rw [State.wake_frame]
    exact of_control rfl
  · rw [State.winner_wake, State.winner_fresh, State.wake_frame] at hb
    generalize s.fresh.wake.mode = mode at hb
    have hsampled : Orderly ((∃ tr, s.winner = some (.trap tr)) ∨ s.fetch = .next .retfie) s
        { s with log := {}, mode := mode, gieLag := s.gieLag - 1 } := of_control rfl
    exact (hsampled.trans (boundary hb)).tickDisi

end Sys2Proof.Machine.State.Orderly

namespace Sys2Proof.Proofs

open Sys2Proof Sys2Proof.Machine

/-- Settles O58: every part of a step is orderly, whatever it may do to IPL3. -/
theorem stepKeepsRegisterForms : Obligations.StepKeepsRegisterForms :=
  fun _ _ hreserved hdisi hstep =>
    have horderly := State.Orderly.step hstep
    ⟨horderly.reserved hreserved, horderly.disi hdisi⟩

/-- Settles O59: of the parts of a step, a trap's entry and RETFIE alone may set IPL3. -/
theorem ipl3IsSetByTrapOrRetfie : Obligations.Ipl3IsSetByTrapOrRetfie := by
  intro s t hclear hstep hset
  have hnot : ¬s.ipl3 = true := by rw [State.ipl3, hclear]; decide
  exact ((State.Orderly.step hstep).ipl3 hset).resolve_left hnot

/-- Settles O60: at reset nothing waits, no loop runs, nothing is written, and DISI is 0. -/
theorem resetMeetsInvariants : Obligations.ResetMeetsInvariants := by
  refine ⟨Nat.zero_le _, ⟨rfl, rfl, by decide, fun k hk => absurd hk (Nat.not_lt_zero _)⟩, ⟨rfl, rfl⟩, ?_, ?_⟩
  · simp [State.reservedClear, State.reset]
  · simp [State.disiCounts, State.disi, State.reset]

end Sys2Proof.Proofs
end

section
/-! SUPPORT. Which interrupts and traps can win at a boundary, and the statements on the CPU priority and on the state after a
reset (O17, O18). -/

namespace Sys2Proof.Machine

open Sys2Proof

/-! ### The winner -/

theorem State.irqDeliverable_of_bestIrq {s : State} {bound n : Nat} (h : s.bestIrq bound = some n) :
    s.irqDeliverable n = true := by
  induction bound with
  | zero => cases h
  | succ k ih =>
    unfold State.bestIrq at h
    split at h
    · rename_i hk
      split at h
      · cases h; exact hk
      · rename_i m hm
        split at h <;> cases h
        · exact hk
        · exact ih hm
    · exact ih h

/-- An interrupt that wins is deliverable (R109). -/
theorem State.irqDeliverable_of_winner {s : State} {n : Nat} (h : s.winner = some (.irq n)) :
    s.irqDeliverable n = true := by
  unfold State.winner at h
  split at h
  · cases h
  · obtain ⟨m, hm, hmn⟩ := Option.map_eq_some_iff.mp h
    cases hmn
    exact State.irqDeliverable_of_bestIrq hm

theorem State.irqDeliverable_iff {s : State} {n : Nat} : s.irqDeliverable n = true ↔
    s.implemented n = true ∧ s.ifsBit n = true ∧ s.iecBit n = true ∧ s.effIpl < (s.ipcOf n).toNat ∧
      (s.disi = false ∨ 6 < (s.ipcOf n).toNat) := by
  simp [State.irqDeliverable, and_assoc]

/-- The controller acts on a priority no lower than the CPU's (R106). -/
theorem State.cpuIpl_le_effIpl (s : State) : s.cpuIpl ≤ s.effIpl := by
  unfold State.effIpl
  split
  · exact Nat.le_refl _
  · exact Nat.le_max_left _ _

/-- No interrupt's level is above 7, the most that IPCx holds (R23). -/
theorem State.winner_ne_irq_of_cpuIpl {s : State} (h : 7 ≤ s.cpuIpl) (n : Nat) : s.winner ≠ some (.irq n) := by
  intro hw
  obtain ⟨-, -, -, hlevel, -⟩ := State.irqDeliverable_iff.mp (State.irqDeliverable_of_winner hw)
  have := s.cpuIpl_le_effIpl
  omega

theorem State.winner_ne_irq_of_iec {s : State} {n : Nat} (h : s.iecBit n = false) : s.winner ≠ some (.irq n) := by
  intro hw
  obtain ⟨-, -, hiec, -⟩ := State.irqDeliverable_iff.mp (State.irqDeliverable_of_winner hw)
  simp [h] at hiec

/-- Every trap is above CPU priority 7 (R101). -/
theorem Trap.seven_lt_level (d : Device) (t : Trap) : 7 < t.level d := by
  cases t with
  | genericSoft =>
    simp only [Trap.level, Device.gstLevel]
    split <;> decide
  | _ => simp [Trap.level]

/-! ### The CPU priority -/

/-- The CPU priority is IPL3 put before IPL<2:0> (R14). -/
theorem State.cpuIpl_eq_append (s : State) :
    s.cpuIpl = (BitVec.ofBool (s.corcon.getLsbD 3) ++ s.sr.extractLsb' 5 3).toNat := by
  have happend : ∀ (b : Bool) (l : BitVec 3), (if b then 8 else 0) + l.toNat = (BitVec.ofBool b ++ l).toNat := by decide
  exact happend (s.corcon.getLsbD 3) (s.sr.extractLsb' 5 3)

theorem State.cpuIpl_le (s : State) : s.cpuIpl ≤ 15 := by
  rw [State.cpuIpl_eq_append]
  omega

/-! ### After a reset -/

/-- The registers that R36 speaks of have the same values after every device reset and after power-on (R35). -/
theorem State.mem_resets {c : ResetCause} {s r : State} (h : r ∈ [State.reset, s.deviceReset c]) :
    r.sr = 0 ∧ r.corcon = 0x0020 ∧ r.intcon2 = 0x8000 ∧ r.iec = Vector.replicate 16 0 ∧
      r.ipc = Vector.replicate 62 0x4444 := by
  rcases List.mem_pair.mp h with rfl | rfl <;> exact ⟨rfl, rfl, rfl, rfl, rfl⟩

theorem bankBit_replicate_zero (n : Nat) : bankBit (Vector.replicate 16 0) n = false := by
  simp [bankBit]

end Sys2Proof.Machine

namespace Sys2Proof.Proofs

open Sys2Proof Sys2Proof.Machine

/-- Settles O18: IPL<2:0> = 111 is a CPU priority of at least 7, above which no interrupt's level lies. -/
theorem cpuPriorityIsIpl3ThenIpl : Obligations.CpuPriorityIsIpl3ThenIpl := by
  intro s
  refine ⟨s.cpuIpl_eq_append, s.cpuIpl_le, fun hipl hipl3 => State.winner_ne_irq_of_cpuIpl ?_⟩
  rw [s.cpuIpl_eq_append, hipl, hipl3]
  decide

/-- Settles O17: with no IEC bit set no interrupt is deliverable, and at CPU priority 0 every trap is. -/
theorem noInterruptAfterReset : Obligations.NoInterruptAfterReset := by
  intro c s0 r hr
  obtain ⟨hsr, hcorcon, hintcon2, hiec, hipc⟩ := State.mem_resets hr
  have hcpu {u : State} (husr : u.sr = r.sr) (hucorcon : u.corcon = r.corcon) : u.cpuIpl = 0 := by
    simp [State.cpuIpl, State.ipl, State.ipl3, husr, hucorcon, hsr, hcorcon]
  have hbit {u : State} (hu : u.iec = r.iec) (n : Nat) : u.iecBit n = false := by
    rw [State.iecBit, hu, hiec, bankBit_replicate_zero]
  refine ⟨?_, hcpu rfl rfl, fun n hn => ?_, hbit rfl, fun u hu n => State.winner_ne_irq_of_iec (hbit hu n),
    fun u husr hucorcon t ht => ?_⟩
  · simp [State.gie, hintcon2]
  · have h62 : n / 4 < 62 := by omega
    have hnibble (k : Nat) (hk : k < 4) : (0x4444#16).extractLsb' (4 * k) 3 = 4 := by
      interval_cases k <;> decide
    simp [State.ipcOf, h62, hipc, hnibble (n % 4) (by omega)]
  · have := t.seven_lt_level u.dev
    simp [State.trapDeliverable, ht, hcpu husr hucorcon]
    omega

end Sys2Proof.Proofs
end

section
/-! SUPPORT. Software writes of special function registers by SFRWRITE (R98): how such an instruction ends, what each register
takes bit by bit, and the statements about those that log no event (O49, O52). -/

namespace Sys2Proof.Machine

open Sys2Proof

/-! ### The end of a write -/

/-- No write of a special function register moves W15, so the write is followed by the PC and the step's end alone. -/
theorem exec_sfrWrite {reg : Sfr} {mask value : Word} {s u : State} (h : s.fresh.writeSfr reg mask value = .next u) :
    exec (.sfrWrite reg mask value) s = .next (u.advance.settle s.cpuIpl) := by
  have hw15 : u.w15 = s.fresh.w15 := by rw [State.writeSfr_frame h]
  have hsame : u.advance.underflowAfter false s.fresh.w15 = u.advance := by
    rw [← hw15]
    exact State.underflowAfter_same u.advance
  change execSfrWrite reg mask value s = _
  simp only [execSfrWrite, h, andThen_next, State.finish, hsame]
  rfl

theorem exec_sfrWrite_calm {reg : Sfr} {mask value : Word} {s u : State} (h : s.fresh.writeSfr reg mask value = .next u)
    (hl : u.logged) (hc : u.hardConflict s.cpuIpl = false) : exec (.sfrWrite reg mask value) s = .next u.advance := by
  rw [exec_sfrWrite h, State.settle_of_calm (s := u.advance) (State.logged_congr hl rfl rfl rfl) hc]

/-- A hard trap event of the write that conflicts resets the device (R127). -/
theorem exec_sfrWrite_conflict {reg : Sfr} {mask value : Word} {s u : State}
    (h : s.fresh.writeSfr reg mask value = .next u) (hl : u.logged) (hc : u.hardConflict s.cpuIpl = true) :
    exec (.sfrWrite reg mask value) s = .next (u.advance.deviceReset .trapConflict) := by
  rw [exec_sfrWrite h, State.settle_of_conflict (s := u.advance) (State.logged_congr hl rfl rfl rfl) hc]

/-- A write that logs nothing is followed by the PC alone. -/
theorem exec_sfrWrite_quiet {reg : Sfr} {mask value : Word} {s u : State}
    (h : s.fresh.writeSfr reg mask value = .next u) (hu : u.log = {}) :
    exec (.sfrWrite reg mask value) s = .next u.advance := by
  rw [exec_sfrWrite h, State.settle_of_fresh (s := u.advance) hu]

theorem State.quiet_of_log {t : State} (h : t.log = {}) : t.quiet := by
  simp [State.quiet, State.logIs, h]

/-- A conflict reset in a state that has the program, the device, the script and the pins of `s` (R127, R180). -/
theorem State.conflictReset_deviceReset {s u : State} (hp : s.sameProgram u) (henv : u.env = s.env)
    (hpins : u.pins = s.pins) : s.conflictReset (u.deviceReset .trapConflict) := by
  obtain ⟨hprog, hsym, hdev⟩ := hp
  refine ⟨?_, ?_, rfl, rfl, rfl, rfl, rfl, rfl, rfl, fun k => ?_, fun k => ?_, rfl, rfl, rfl, rfl, rfl, rfl, rfl, rfl,
    ⟨hprog, hsym, hdev⟩, henv, hpins, rfl⟩
  · simp [State.trapr, State.deviceReset]
  · rw [State.deviceReset_pc, hdev]; rfl
  · simp
  · simp

/-! ### SR and CORCON -/

/-- A field of which no bit is written stays. -/
theorem extractLsb'_writeBits_of_readOnly {old mask value rw rc : Word} {start len : Nat}
    (hrw : rw.extractLsb' start len = 0) (hrc : rc.extractLsb' start len = 0) :
    (writeBits old mask value rw rc).extractLsb' start len = old.extractLsb' start len := by
  apply BitVec.eq_of_getLsbD_eq
  intro i hi
  have hrwi := congrArg (fun v => v.getLsbD i) hrw
  have hrci := congrArg (fun v => v.getLsbD i) hrc
  simp only [BitVec.getLsbD_extractLsb', hi, decide_true, Bool.true_and] at hrwi hrci ⊢
  simp [hrwi, hrci]

/-- A 0 written to IPL3 leaves the CPU priority of IPL<2:0> (R16). -/
theorem State.cpuIpl_of_ipl3_clear {s : State} (h : s.corcon.getLsbD 3 = false) :
    s.cpuIpl = (s.sr.extractLsb' 5 3).toNat := by
  simp only [State.cpuIpl, State.ipl3, h, Bool.false_eq_true, if_false, Nat.zero_add]
  rfl

/-! ### IFSx, IECx and IPCx -/

theorem getLsbD_flagBits (d : Device) (n : Nat) : (d.flagBits (n / 16)).getLsbD (n % 16) = d.implIrq.getLsbD n := by
  have hlt : n % 16 < 16 := Nat.mod_lt _ (by decide)
  have hn : 16 * (n / 16) + n % 16 = n := Nat.div_add_mod n 16
  simp [Device.flagBits, hlt, hn]

/-- A source's bit of a bank after a write of one of its registers (R24). -/
theorem bankBit_write (d : Device) (v : Vector Word 16) (k : Fin 16) (mask value : Word) (n : Nat) :
    bankBit (v.set k.val (writeBits v[k.val] mask value (d.flagBits k.val) 0)) n =
      if n / 16 = k.val ∧ d.implIrq.getLsbD n = true ∧ mask.getLsbD (n % 16) = true then value.getLsbD (n % 16)
      else bankBit v n := by
  unfold bankBit
  by_cases hn : n / 16 < 16
  · by_cases hk : k.val = n / 16
    · simp only [hn, hk, dif_pos, Vector.getElem_set_self, getLsbD_writeBits, getLsbD_flagBits, true_and]
      cases mask.getLsbD (n % 16) <;> cases d.implIrq.getLsbD n <;> simp
    · simp [hn, hk, Ne.symm hk]
  · have hk : ¬n / 16 = k.val := by omega
    simp [hn, hk]

/-- The priority bits of source `4 * k + j` in IPCk are the source's own (R23, R24). -/
theorem getLsbD_priorityBits (d : Device) (n i : Nat) (hi : i < 3) :
    (d.priorityBits (n / 4)).getLsbD (4 * (n % 4) + i) = d.implIrq.getLsbD n := by
  have hj : n % 4 < 4 := Nat.mod_lt _ (by decide)
  have hn : 4 * (n / 4) + n % 4 = n := Nat.div_add_mod n 4
  have hsource : d.implIrq.getLsbD n = d.implIrq.getLsbD (4 * (n / 4) + n % 4) := by rw [hn]
  have hif (b : Bool) (m : Word) (x : Nat) : (if b then m else 0).getLsbD x = (b && m.getLsbD x) := by cases b <;> simp
  rw [hsource]
  simp only [Device.priorityBits, BitVec.getLsbD_or, hif]
  interval_cases n % 4 <;> interval_cases i <;> simp

/-- A source's priority after a write of one of IPCx (R24). -/
theorem getLsbD_ipcOf_write (s : State) (k : Fin 62) (mask value : Word) (n i : Nat) (hi : i < 3) :
    (State.ipcOf { s with ipc := s.ipc.set k.val (writeBits s.ipc[k.val] mask value (s.dev.priorityBits k.val) 0) } n).getLsbD i =
      if n / 4 = k.val ∧ s.implemented n = true ∧ mask.getLsbD (4 * (n % 4) + i) = true
      then value.getLsbD (4 * (n % 4) + i) else (s.ipcOf n).getLsbD i := by
  unfold State.ipcOf
  by_cases hn : n / 4 < 62
  · by_cases hk : k.val = n / 4
    · simp only [hn, hk, dif_pos, Vector.getElem_set_self, BitVec.getLsbD_extractLsb', getLsbD_writeBits,
        getLsbD_priorityBits _ _ _ hi, hi, decide_true, true_and, State.implemented]
      cases mask.getLsbD (4 * (n % 4) + i) <;> cases s.dev.implIrq.getLsbD n <;> simp
    · simp [hn, hk, Ne.symm hk]
  · have hk : ¬n / 4 = k.val := by omega
    simp [hn, hk]

end Sys2Proof.Machine

namespace Sys2Proof.Proofs

open Sys2Proof Sys2Proof.Machine

/-- Settles O49: IPL<2:0> are no R/W bits while NSTDIS = 1, and IPL3 is an R/C bit. -/
theorem sfrWriteSrAndCorcon : Obligations.SfrWriteSrAndCorcon := by
  intro s mask value
  constructor
  · have hopen (hn : s.intcon1.getLsbD 15 = false) : s.srRw = 0x00EF := if_neg (by rw [State.nstdis, hn]; decide)
    have hclosed (hn : s.intcon1.getLsbD 15 = true) : s.srRw = 0x000F := if_pos hn
    refine ⟨_, exec_sfrWrite_quiet rfl rfl, fun hn => ?_, fun hn => ⟨?_, ?_⟩, State.quiet_of_log rfl, rfl⟩
    · exact hopen hn ▸ bitsWritten_writeBits s.sr mask value s.srRw srRc (by rw [hopen hn]; decide)
    · exact hclosed hn ▸ bitsWritten_writeBits s.sr mask value s.srRw srRc (by rw [hclosed hn]; decide)
    · exact extractLsb'_writeBits_of_readOnly (rw := s.srRw) (by rw [hclosed hn]; decide) (by decide)
  · have hipl3 := s.ipl3_writeCorcon mask value
    have hsfa := getLsbD_writeBits s.corcon mask value corconRw corconRc 2
    rw [show corconRw.getLsbD 2 = false by decide, show corconRc.getLsbD 2 = false by decide] at hsfa
    refine ⟨_, exec_sfrWrite_quiet rfl rfl, bitsWritten_writeBits _ _ _ _ _ (by decide), fun h => ?_, fun hm hv => ?_,
      hsfa.trans (by simp), extractLsb'_writeBits_of_readOnly (by decide) (by decide), State.quiet_of_log rfl, rfl⟩
    · exact (Bool.and_eq_true_iff.mp (hipl3.symm.trans h)).1
    · exact State.cpuIpl_of_ipl3_clear (hipl3.trans (by rw [hm, hv]; simp))

/-- Settles O52: the write is bit by bit by the sources of the device. -/
theorem sfrWriteInterruptRegisters : Obligations.SfrWriteInterruptRegisters := by
  intro s mask value
  refine ⟨fun k => ?_, fun k => ?_, fun k => ?_, ?_⟩
  · exact ⟨_, exec_sfrWrite_quiet rfl rfl, fun n => bankBit_write s.dev s.ifs k mask value n, State.quiet_of_log rfl, rfl⟩
  · exact ⟨_, exec_sfrWrite_quiet rfl rfl, fun n => bankBit_write s.dev s.iec k mask value n, State.quiet_of_log rfl, rfl⟩
  · refine ⟨_, exec_sfrWrite_quiet rfl rfl, fun n i hi => getLsbD_ipcOf_write s k mask value n i hi, fun j => ?_,
      State.quiet_of_log rfl, rfl⟩
    by_cases hjk : k.val = j.val
    · obtain rfl := Fin.ext hjk
      simpa using writeBits_and_reserved (priorityBits_reserved s.dev k.val)
    · simp [hjk]
  · exact ⟨_, exec_sfrWrite_quiet rfl rfl, State.quiet_of_log rfl, rfl⟩

end Sys2Proof.Proofs
end

section
/-! SUPPORT. Software writes of the registers whose bits are hard trap events, INTCON1, INTCON2 and INTCON4 (R127, R132, D28),
and the statements about INTCON1 to INTCON4 (O50, O51). -/

namespace Sys2Proof.Machine

open Sys2Proof

/-! ### Flags and conflicts -/

/-- A flag already set is set. -/
theorem or_flag_self {v m : Word} {i : Nat} (hi : v.getLsbD i = true) (hm : m = 1#16 <<< i) : v ||| m = v := by
  subst hm
  apply BitVec.eq_of_getLsbD_eq
  intro j hj
  simp only [BitVec.getLsbD_or, getLsbD_one_shift]
  by_cases hji : j = i
  · subst hji; simp [hi]
  · simp [hji]

/-- The priorities 0 to 15 end at the oscillator failure's level. -/
theorem State.fifteen_le_cpuIpl (s : State) : 15 ≤ s.cpuIpl ↔ s.cpuIpl = 15 :=
  ⟨fun h => Nat.le_antisymm s.cpuIpl_le h, fun h => Nat.le_of_eq h.symm⟩

/-- A step that detected a generic hard trap at most conflicts with the CPU priority or with a higher hard trap's flag (R127). -/
theorem State.hardConflict_generic {ipl : Nat} {u : State} (hosc : u.log.osc = false) (haddr : u.log.addr = false) :
    u.hardConflict ipl = true ↔
      u.log.gen = true ∧ (13 ≤ ipl ∨ u.intcon1.getLsbD 1 = true ∨ u.intcon1.getLsbD 3 = true) := by
  simp only [State.hardConflict, hosc, haddr, State.trapRequest, Bool.or_eq_true, Bool.and_eq_true, decide_eq_true_eq,
    Bool.false_and, Bool.false_eq_true, false_or, or_assoc]

/-- What the log of a step holds where the step has detected no stack error. -/
theorem State.logIs_of_no_stack {t : State} {osc addr gen disiLoad : Prop} (hstk : t.log.stk = false)
    (hosc : t.log.osc = true ↔ osc) (haddr : t.log.addr = true ↔ addr) (hgen : t.log.gen = true ↔ gen)
    (hdisi : t.log.disiLoad = true ↔ disiLoad) : t.logIs osc addr gen disiLoad :=
  ⟨hosc, haddr, hgen, hdisi, fun h => absurd (hstk.symm.trans h) Bool.false_ne_true⟩

/-- An event that is not in the log. -/
theorem not_logged {b : Bool} (h : b = false) : b = true ↔ False := by simp [h]

/-! ### INTCON1 -/

/-- A 0 to MATHERR is ignored where its cause is active; every other bit that the device has takes the value (R139). -/
theorem State.getLsbD_writeIntcon1 (s : State) (mask value : Word) (i : Nat) :
    (s.writeIntcon1 mask value).intcon1.getLsbD i =
      if mask.getLsbD i = true ∧ s.dev.intcon1Bits.getLsbD i = true ∧
        ¬(i = 4 ∧ value.getLsbD 4 = false ∧
          ((s.intcon1.getLsbD 10 = true ∧ s.sr.getLsbD 15 = true) ∨
            (s.intcon1.getLsbD 9 = true ∧ s.sr.getLsbD 14 = true)))
      then value.getLsbD i else s.intcon1.getLsbD i := by
  have hcause : s.mathCauseActive = true ↔ (s.intcon1.getLsbD 10 = true ∧ s.sr.getLsbD 15 = true) ∨
      (s.intcon1.getLsbD 9 = true ∧ s.sr.getLsbD 14 = true) := by
    rw [State.mathCauseActive, Bool.or_eq_true, Bool.and_eq_true, Bool.and_eq_true]
  have hmath : (0x0010#16).getLsbD i = decide (i = 4) := by
    rw [show (0x0010#16) = 1#16 <<< 4 by decide, getLsbD_one_shift]
    exact decide_eq_decide.mpr ⟨And.left, fun h => ⟨h, by omega⟩⟩
  have hvalue : (if s.mathCauseActive then value ||| (s.intcon1 &&& 0x0010) else value).getLsbD i =
      (value.getLsbD i || (s.mathCauseActive && (s.intcon1.getLsbD i && decide (i = 4)))) := by
    cases s.mathCauseActive <;> simp [hmath]
  simp only [← hcause]
  simp only [State.writeIntcon1, getLsbD_writeBits, hvalue]
  by_cases hi : i = 4
  · subst hi
    cases mask.getLsbD 4 <;> cases s.dev.intcon1Bits.getLsbD 4 <;> cases value.getLsbD 4 <;>
      cases s.mathCauseActive <;> simp
  · cases mask.getLsbD i <;> cases s.dev.intcon1Bits.getLsbD i <;> simp [hi]

/-- OSCFAIL and ADDRERR are bits of every device, with no cause that holds them (R17). -/
theorem State.getLsbD_writeIntcon1_hard (s : State) (mask value : Word) {i : Nat} (hi : i = 1 ∨ i = 3) :
    (s.writeIntcon1 mask value).intcon1.getLsbD i = if mask.getLsbD i = true then value.getLsbD i else s.intcon1.getLsbD i := by
  have hbit : s.dev.intcon1Bits.getLsbD i = true := by
    unfold Device.intcon1Bits
    rcases hi with rfl | rfl <;> simp
  rw [State.getLsbD_writeIntcon1, hbit]
  have h4 : i ≠ 4 := by omega
  simp [h4]

/-- A hard trap event of the write: a 1 over a 0 (D28). -/
theorem State.rises_writeIntcon1 (s : State) (mask value : Word) {i : Nat} (hi : i = 1 ∨ i = 3) :
    ((s.writeIntcon1 mask value).intcon1.getLsbD i && !s.intcon1.getLsbD i) = true ↔
      mask.getLsbD i = true ∧ value.getLsbD i = true ∧ s.intcon1.getLsbD i = false := by
  rw [State.getLsbD_writeIntcon1_hard s mask value hi]
  cases mask.getLsbD i <;> cases value.getLsbD i <;> cases s.intcon1.getLsbD i <;> simp

theorem State.writeIntcon1_log (s : State) (mask value : Word) :
    (s.fresh.writeIntcon1 mask value).log =
      { osc := (s.fresh.writeIntcon1 mask value).intcon1.getLsbD 1 && !s.intcon1.getLsbD 1
        addr := (s.fresh.writeIntcon1 mask value).intcon1.getLsbD 3 && !s.intcon1.getLsbD 3 } := rfl

/-- The events of the write have their flags, as the write sets them. -/
theorem State.logged_writeIntcon1 (s : State) (mask value : Word) : (s.fresh.writeIntcon1 mask value).logged := by
  refine ⟨?_, fun h => Bool.noConfusion h⟩
  rw [State.writeIntcon1_log]
  generalize (s.fresh.writeIntcon1 mask value).intcon1 = v
  have hflag {b : Bool} {m : Word} {i : Nat} (hm : m = 1#16 <<< i) :
      v ||| (if (v.getLsbD i && b) = true then m else 0) = v := by
    split
    · rename_i h
      exact or_flag_self (Bool.and_eq_true_iff.mp h).1 hm
    · simp
  simp only [StepLog.intcon1Bits]
  rw [← BitVec.or_assoc, ← BitVec.or_assoc, hflag (m := 0x0002) rfl, hflag (m := 0x0008) rfl]
  simp

/-- The events of the write conflict with the CPU priority, or an address error with the oscillator failure's flag as the write
leaves it (R127). -/
theorem State.hardConflict_writeIntcon1 (s : State) (mask value : Word) :
    (s.fresh.writeIntcon1 mask value).hardConflict s.cpuIpl = true ↔
      ((mask.getLsbD 1 = true ∧ value.getLsbD 1 = true ∧ s.intcon1.getLsbD 1 = false) ∧ s.cpuIpl = 15) ∨
      ((mask.getLsbD 3 = true ∧ value.getLsbD 3 = true ∧ s.intcon1.getLsbD 3 = false) ∧
        (14 ≤ s.cpuIpl ∨ if mask.getLsbD 1 = true then value.getLsbD 1 = true else s.intcon1.getLsbD 1 = true)) := by
  have hosc := State.rises_writeIntcon1 s.fresh mask value (i := 1) (.inl rfl)
  have haddr := State.rises_writeIntcon1 s.fresh mask value (i := 3) (.inr rfl)
  have hafter : (s.fresh.writeIntcon1 mask value).trapRequest .oscillator = true ↔
      if mask.getLsbD 1 = true then value.getLsbD 1 = true else s.intcon1.getLsbD 1 = true := by
    rw [State.trapRequest, State.getLsbD_writeIntcon1_hard s.fresh mask value (.inl rfl)]
    split <;> rfl
  rw [State.fresh_intcon1] at hosc haddr
  rw [← hosc, ← haddr, ← hafter, ← State.fifteen_le_cpuIpl]
  simp only [State.hardConflict, State.writeIntcon1_log, Bool.or_eq_true, Bool.and_eq_true, decide_eq_true_eq,
    Bool.false_and, Bool.false_eq_true, or_false]

/-! ### INTCON4 -/

theorem State.writeIntcon4_log (s : State) (mask value : Word) :
    (s.fresh.writeIntcon4 mask value).log =
      { gen := (s.fresh.writeIntcon4 mask value).intcon4.getLsbD 0 && !s.intcon4.getLsbD 0 } := rfl

theorem State.logged_writeIntcon4 (s : State) (mask value : Word) : (s.fresh.writeIntcon4 mask value).logged := by
  refine ⟨by simp [State.writeIntcon4_log, StepLog.intcon1Bits], fun h => ?_⟩
  rw [State.writeIntcon4_log] at h
  exact or_flag_self (Bool.and_eq_true_iff.mp h).1 rfl

/-- SGHT is the one bit of INTCON4; a 1 written over a 0 in it is a hard trap event (R20, R132). -/
theorem State.rises_writeIntcon4 (s : State) (mask value : Word) :
    (s.fresh.writeIntcon4 mask value).log.gen = true ↔
      mask.getLsbD 0 = true ∧ value.getLsbD 0 = true ∧ s.intcon4.getLsbD 0 = false := by
  have hbit : (s.fresh.writeIntcon4 mask value).intcon4.getLsbD 0 =
      if mask.getLsbD 0 then value.getLsbD 0 else s.intcon4.getLsbD 0 := by
    refine (getLsbD_writeBits ..).trans ?_
    cases mask.getLsbD 0 <;> simp
  rw [State.writeIntcon4_log, hbit]
  cases mask.getLsbD 0 <;> cases value.getLsbD 0 <;> cases s.intcon4.getLsbD 0 <;> simp

theorem State.hardConflict_writeIntcon4 (s : State) (mask value : Word) :
    (s.fresh.writeIntcon4 mask value).hardConflict s.cpuIpl = true ↔
      (mask.getLsbD 0 = true ∧ value.getLsbD 0 = true ∧ s.intcon4.getLsbD 0 = false) ∧
        (13 ≤ s.cpuIpl ∨ s.intcon1.getLsbD 1 = true ∨ s.intcon1.getLsbD 3 = true) := by
  rw [← State.rises_writeIntcon4]
  exact State.hardConflict_generic rfl rfl

/-! ### INTCON2 -/

/-- INTCON2 after a write of it (R18, R98). -/
def State.intcon2After (mask value : Word) (s : State) : Word := writeBits s.intcon2 mask value intcon2Rw 0

/-- Whether a write of INTCON2 takes SWTRAP from 0 to 1 (R132). -/
def State.swtrapRises (mask value : Word) (s : State) : Bool :=
  (s.intcon2After mask value).getLsbD 13 && !s.intcon2.getLsbD 13

theorem State.swtrapRises_iff (s : State) (mask value : Word) : s.swtrapRises mask value = true ↔
    mask.getLsbD 13 = true ∧ value.getLsbD 13 = true ∧ s.intcon2.getLsbD 13 = false := by
  have hbit : (s.intcon2After mask value).getLsbD 13 =
      if mask.getLsbD 13 then value.getLsbD 13 else s.intcon2.getLsbD 13 := by
    refine (getLsbD_writeBits ..).trans ?_
    rw [show intcon2Rw.getLsbD 13 = true by decide]
    cases mask.getLsbD 13 <;> simp
  rw [State.swtrapRises, hbit]
  cases mask.getLsbD 13 <;> cases value.getLsbD 13 <;> cases s.intcon2.getLsbD 13 <;> simp

/-- What a write of INTCON2 does before the flags of the external interrupts: the register, the delay of GIE, and SGHT where
SWTRAP rises (R18, R106, R132). -/
def State.setIntcon2 (mask value : Word) (s : State) : State :=
  let t := { s with
    intcon2 := s.intcon2After mask value
    gieLag := gieLagAfter (s.intcon2.getLsbD 15) ((s.intcon2After mask value).getLsbD 15) s.gieLag s.free
    free := s.free + 1 }
  if s.swtrapRises mask value then t.raiseHard .gen else t

/-- The polarity bits that a write of INTCON2 changes (R152). -/
def State.polarityChanged (mask value : Word) (s : State) : Word := (s.intcon2After mask value ^^^ s.intcon2) &&& 0x001F

/-- A write of INTCON2 in its two parts. -/
theorem State.writeIntcon2_eq (s : State) (mask value : Word) : s.writeIntcon2 mask value =
    if s.polarityChanged mask value = 0 then s.setIntcon2 mask value
    else (s.setIntcon2 mask value).draw.polarityFlags (s.polarityChanged mask value)
      (Config.freeWord (s.setIntcon2 mask value).free) (s.setIntcon2 mask value).dev.extIrq 0 := rfl

/-- The first part, register by register. -/
theorem State.setIntcon2_eq (s : State) (mask value : Word) : s.setIntcon2 mask value = { s with
    intcon2 := s.intcon2After mask value
    intcon4 := if s.swtrapRises mask value then s.intcon4 ||| 0x0001 else s.intcon4
    gieLag := gieLagAfter (s.intcon2.getLsbD 15) ((s.intcon2After mask value).getLsbD 15) s.gieLag s.free
    free := s.free + 1
    log := if s.swtrapRises mask value then { s.log with gen := true } else s.log } := by
  unfold State.setIntcon2
  cases s.swtrapRises mask value <;> rfl

/-- The second part changes flags of external interrupts and the draw count alone. -/
theorem State.writeIntcon2_frame_set (s : State) (mask value : Word) : s.writeIntcon2 mask value =
    { s.setIntcon2 mask value with
      ifs := (s.writeIntcon2 mask value).ifs, free := (s.writeIntcon2 mask value).free } := by
  rw [State.writeIntcon2_eq]
  split
  · rfl
  · rw [State.polarityFlags_frame]
    rfl

/-- The flags that a list of pins sets: each of a pin whose polarity bit changed. -/
theorem State.ifsBit_polarityFlags (c d : Word) (ns : List Nat) (k : Nat) (s : State) (n : Nat) :
    (s.polarityFlags c d ns k).ifsBit n = s.ifsBit n ∨
      ((s.polarityFlags c d ns k).ifsBit n = true ∧ ∃ j, c.getLsbD (k + j) = true ∧ ns[j]? = some n) := by
  induction ns generalizing s k with
  | nil => exact .inl rfl
  | cons m ms ih =>
    simp only [State.polarityFlags]
    rcases ih (k + 1) (if (c.getLsbD k && d.getLsbD k) = true then s.setIfs m else s) with h | ⟨h, j, hc, hj⟩
    · rw [h]
      split
      · rename_i hk
        rw [State.ifsBit_setIfs]
        by_cases hn : (decide (n = m) && s.implemented m) = true
        · have hnm : n = m := of_decide_eq_true (Bool.and_eq_true_iff.mp hn).1
          exact .inr ⟨by rw [hn, Bool.true_or], 0, (Bool.and_eq_true_iff.mp hk).1, congrArg some hnm.symm⟩
        · exact .inl (by rw [Bool.eq_false_iff.mpr hn, Bool.false_or])
      · exact .inl rfl
    · exact .inr ⟨h, j + 1, by rwa [Nat.add_comm j, ← Nat.add_assoc], hj⟩

/-- A polarity bit that changed is one of pins 0 to 4, and its value differs. -/
theorem State.polarityChanged_bit {s : State} {mask value : Word} {j : Nat}
    (h : (s.polarityChanged mask value).getLsbD j = true) :
    j < 5 ∧ (s.intcon2After mask value).getLsbD j ≠ s.intcon2.getLsbD j := by
  rw [State.polarityChanged, BitVec.getLsbD_and, BitVec.getLsbD_xor, Bool.and_eq_true] at h
  obtain ⟨hdiff, hmask⟩ := h
  have hpins : ∀ i < 16, (0x001F#16).getLsbD i = true → i < 5 := by decide
  exact ⟨hpins j (BitVec.lt_of_getLsbD hmask) hmask, by simpa using hdiff⟩

/-- A write of INTCON2 may set the flag of a pin whose polarity bit it changes, and touches no other flag (R152, D32). -/
theorem State.ifsBit_writeIntcon2 (s : State) (mask value : Word) (n : Nat) :
    (s.writeIntcon2 mask value).ifsBit n = s.ifsBit n ∨
      ((s.writeIntcon2 mask value).ifsBit n = true ∧
        ∃ k : Fin 5, (s.intcon2After mask value).getLsbD k ≠ s.intcon2.getLsbD k ∧ s.dev.extIrq[k.val]? = some n) := by
  have hifs : (s.setIntcon2 mask value).draw.ifsBit n = s.ifsBit n := by
    rw [State.setIntcon2_eq]
    rfl
  have hext : (s.setIntcon2 mask value).dev.extIrq = s.dev.extIrq := by rw [State.setIntcon2_eq]
  rw [State.writeIntcon2_eq]
  split
  · exact .inl hifs
  · rw [hext, ← hifs]
    refine (State.ifsBit_polarityFlags ..).imp_right fun ⟨hset, j, hc, hj⟩ => ?_
    rw [Nat.zero_add] at hc
    obtain ⟨hlt, hdiff⟩ := State.polarityChanged_bit hc
    exact ⟨hset, ⟨j, hlt⟩, hdiff, hj⟩

theorem State.logged_writeIntcon2 (s : State) (mask value : Word) : (s.fresh.writeIntcon2 mask value).logged := by
  have hset : (s.fresh.setIntcon2 mask value).logged := by
    unfold State.setIntcon2
    dsimp only
    split
    · exact State.logged_raiseHard (State.logged_of_empty rfl) .gen
    · exact State.logged_of_empty rfl
  rw [State.writeIntcon2_frame_set]
  exact State.logged_congr hset rfl rfl rfl

/-- A write of INTCON2 in a fresh step, register by register; the draws and the flags of the external interrupts stand for
themselves. -/
theorem State.fresh_writeIntcon2_eq (s : State) (mask value : Word) : s.fresh.writeIntcon2 mask value = { s with
    intcon2 := s.intcon2After mask value
    intcon4 := if s.swtrapRises mask value then s.intcon4 ||| 0x0001 else s.intcon4
    gieLag := gieLagAfter (s.intcon2.getLsbD 15) ((s.intcon2After mask value).getLsbD 15) s.gieLag s.free
    ifs := (s.fresh.writeIntcon2 mask value).ifs
    free := (s.fresh.writeIntcon2 mask value).free
    log := { gen := s.swtrapRises mask value } } := by
  have hlog : (if s.swtrapRises mask value then { s.fresh.log with gen := true } else s.fresh.log : StepLog) =
      { gen := s.swtrapRises mask value } := by
    cases s.swtrapRises mask value <;> rfl
  rw [← hlog]
  exact (State.writeIntcon2_frame_set s.fresh mask value).trans (by rw [State.setIntcon2_eq]; rfl)

theorem State.writeIntcon2_intcon2 (s : State) (mask value : Word) :
    (s.fresh.writeIntcon2 mask value).intcon2 = s.intcon2After mask value := by rw [State.fresh_writeIntcon2_eq]

theorem State.writeIntcon2_intcon4 (s : State) (mask value : Word) : (s.fresh.writeIntcon2 mask value).intcon4 =
    if s.swtrapRises mask value then s.intcon4 ||| 0x0001 else s.intcon4 := by rw [State.fresh_writeIntcon2_eq]

theorem State.writeIntcon2_gieLag (s : State) (mask value : Word) : (s.fresh.writeIntcon2 mask value).gieLag =
    gieLagAfter (s.intcon2.getLsbD 15) ((s.intcon2After mask value).getLsbD 15) s.gieLag s.free := by
  rw [State.fresh_writeIntcon2_eq]

theorem State.writeIntcon2_log (s : State) (mask value : Word) :
    (s.fresh.writeIntcon2 mask value).log = { gen := s.swtrapRises mask value } := by rw [State.fresh_writeIntcon2_eq]

theorem State.hardConflict_writeIntcon2 (s : State) (mask value : Word) :
    (s.fresh.writeIntcon2 mask value).hardConflict s.cpuIpl = true ↔ s.swtrapRises mask value = true ∧
      (13 ≤ s.cpuIpl ∨ s.intcon1.getLsbD 1 = true ∨ s.intcon1.getLsbD 3 = true) := by
  have hlog := s.writeIntcon2_log mask value
  have hintcon1 : (s.fresh.writeIntcon2 mask value).intcon1 = s.intcon1 := by rw [State.fresh_writeIntcon2_eq]
  rw [State.hardConflict_generic (by rw [hlog]) (by rw [hlog]), hlog, hintcon1]

/-- A write that would change DISI is refused (D11). -/
theorem exec_sfrWrite_intcon2_refused {s : State} {mask value : Word} (hm : mask.getLsbD 14 = true)
    (hne : value.getLsbD 14 ≠ s.intcon2.getLsbD 14) :
    exec (.sfrWrite .intcon2 mask value) s = .refused .disiBitWrite := by
  have hwrite : s.fresh.writeSfr .intcon2 mask value = .refused .disiBitWrite :=
    if_pos (Bool.and_eq_true_iff.mpr ⟨hm, bne_iff_ne.mpr hne⟩)
  change execSfrWrite .intcon2 mask value s = _
  simp only [execSfrWrite, hwrite, andThen_refused]

/-- A write that leaves DISI, and whose event conflicts with nothing, ends with the PC moved on. -/
theorem exec_sfrWrite_intcon2 {s : State} {mask value : Word}
    (hkeep : mask.getLsbD 14 = true → value.getLsbD 14 = s.intcon2.getLsbD 14)
    (hcalm : (s.fresh.writeIntcon2 mask value).hardConflict s.cpuIpl = false) :
    exec (.sfrWrite .intcon2 mask value) s = .next (s.fresh.writeIntcon2 mask value).advance :=
  exec_sfrWrite_calm
    (if_neg fun h => bne_iff_ne.mp (Bool.and_eq_true_iff.mp h).2 (hkeep (Bool.and_eq_true_iff.mp h).1))
    (State.logged_writeIntcon2 ..) hcalm

/-! #### GIE seen late (R106, D9) -/

theorem gieLagAfter_set (old : Bool) (lag n : Nat) : gieLagAfter old true lag n = 0 := rfl

theorem gieLagAfter_cleared_le (lag n : Nat) : gieLagAfter true false lag n ≤ 2 :=
  Nat.le_of_lt_succ (Config.gieDelay n).isLt

theorem gieLagAfter_still_clear (lag n : Nat) : gieLagAfter false false lag n = lag := rfl

end Sys2Proof.Machine

namespace Sys2Proof.Proofs

open Sys2Proof Sys2Proof.Machine

/-- The bits of INTCON1 that belong to no unit, with those of the units that the device has (R17). -/
theorem intcon1Bits_table (d : Device) : d.intcon1Bits =
    if d.hasDsp then (if d.hasDma then 0xFFFE else 0xFFDE) else if d.hasDma then 0x807E else 0x805E := by
  unfold Device.intcon1Bits
  cases d.hasDsp <;> cases d.hasDma <;> decide

/-- Settles O51. -/
theorem sfrWriteTrapFlags : Obligations.SfrWriteTrapFlags := by
  intro s mask value osc addr oscAfter gen hosc haddr hafter hgen
  have hconflict1 := State.hardConflict_writeIntcon1 s mask value
  rw [← hosc, ← haddr, ← hafter] at hconflict1
  have hconflict4 := State.hardConflict_writeIntcon4 s mask value
  rw [← hgen] at hconflict4
  refine ⟨intcon1Bits_table s.dev, getLsbD_intcon3Bits s.dev, fun hosc15 haddr14 => ?_, fun hc => ?_, ?_, fun hcalm => ?_,
    fun hg hc => ?_⟩
  · have hcalm : (s.fresh.writeIntcon1 mask value).hardConflict s.cpuIpl = false :=
      Bool.eq_false_iff.mpr (hconflict1.not.mpr (not_or.mpr ⟨hosc15, haddr14⟩))
    refine ⟨_, exec_sfrWrite_calm rfl (State.logged_writeIntcon1 ..) hcalm,
      fun i _ => State.getLsbD_writeIntcon1 s.fresh mask value i, ?_, rfl⟩
    exact State.logIs_of_no_stack rfl ((State.rises_writeIntcon1 s.fresh mask value (.inl rfl)).trans hosc.symm)
      ((State.rises_writeIntcon1 s.fresh mask value (.inr rfl)).trans haddr.symm) (not_logged rfl) (not_logged rfl)
  · exact ⟨_, exec_sfrWrite_conflict rfl (State.logged_writeIntcon1 ..) (hconflict1.mpr hc),
      State.conflictReset_deviceReset ⟨rfl, rfl, rfl⟩ rfl rfl⟩
  · exact ⟨_, exec_sfrWrite_quiet rfl rfl, bitsWritten_writeBits _ _ _ _ _ (by simp), State.quiet_of_log rfl, rfl⟩
  · have hcalm4 : (s.fresh.writeIntcon4 mask value).hardConflict s.cpuIpl = false :=
      Bool.eq_false_iff.mpr (hconflict4.not.mpr hcalm)
    exact ⟨_, exec_sfrWrite_calm rfl (State.logged_writeIntcon4 ..) hcalm4, bitsWritten_writeBits _ _ _ _ _ (by decide),
      State.logIs_of_no_stack rfl (not_logged rfl) (not_logged rfl)
        ((State.rises_writeIntcon4 s mask value).trans hgen.symm) (not_logged rfl), rfl⟩
  · exact ⟨_, exec_sfrWrite_conflict rfl (State.logged_writeIntcon4 ..) (hconflict4.mpr ⟨hg, hc⟩),
      State.conflictReset_deviceReset ⟨rfl, rfl, rfl⟩ rfl rfl⟩

/-- Settles O50: the write changes the registers that `State.fresh_writeIntcon2_eq` names, and where SWTRAP rises the hypothesis
excludes the conflict. -/
theorem sfrWriteIntcon2 : Obligations.SfrWriteIntcon2 := by
  intro s mask value
  refine ⟨exec_sfrWrite_intcon2_refused, fun hkeep hfree => ?_⟩
  have hrises := s.swtrapRises_iff mask value
  have hcalm : (s.fresh.writeIntcon2 mask value).hardConflict s.cpuIpl = false := by
    rw [Bool.eq_false_iff, ne_eq, State.hardConflict_writeIntcon2, hrises]
    rintro ⟨⟨hm, hv, hold⟩, hhigher⟩
    obtain ⟨hipl, hosc, haddr⟩ := hfree hm hv hold
    rcases hhigher with h13 | h1 | h3
    · omega
    · exact Bool.false_ne_true (hosc.symm.trans h1)
    · exact Bool.false_ne_true (haddr.symm.trans h3)
  refine ⟨_, exec_sfrWrite_intcon2 hkeep hcalm, ?_⟩
  have hifs := State.ifsBit_writeIntcon2 s.fresh mask value
  have hlog := s.writeIntcon2_log mask value
  have hlag := s.writeIntcon2_gieLag mask value
  have hintcon4 := s.writeIntcon2_intcon4 mask value
  simp only [State.advance_intcon2, State.advance_intcon4, State.advance_gieLag, State.writeIntcon2_intcon2]
  refine ⟨bitsWritten_writeBits _ _ _ _ _ (by decide), fun hold hnew => ?_, fun hstays => ?_, fun hnew => ⟨?_, ?_⟩,
    fun hold hnew => ?_, fun hold hnew => ?_, hifs, ?_, ?_⟩
  · exact hintcon4.trans (if_pos (by rw [State.swtrapRises, hnew, hold]; rfl))
  · refine hintcon4.trans (if_neg ?_)
    rcases hstays with hold | hnew
    · rw [State.swtrapRises, hold, Bool.not_true, Bool.and_false]
      decide
    · rw [State.swtrapRises, hnew, Bool.false_and]
      decide
  · exact Bool.or_eq_true_iff.mpr (.inl ((congrArg (·.getLsbD 15) (s.writeIntcon2_intcon2 mask value)).trans hnew))
  · rw [hlag, hnew, gieLagAfter_set]
  · rw [hlag, hold, hnew]
    exact gieLagAfter_cleared_le ..
  · rw [hlag, hold, hnew, gieLagAfter_still_clear]
  · refine State.logIs_of_no_stack ?_ (not_logged ?_) (not_logged ?_) ?_ (not_logged ?_) <;>
      rw [State.advance_log, hlog]
    exact hrises
  · rw [State.fresh_writeIntcon2_eq]
    rfl

end Sys2Proof.Proofs
end

section
/-! SUPPORT. What every step keeps of the program counter, the DO loops and the memories: what each part of a step may make of them
is said once (`State.Steady`, and `Steadily` of a part that may stop), in the order of the model, and the statements about the step
(O56, O57) are read off it. -/

namespace Sys2Proof.Machine

open Sys2Proof

/-! ### Even addresses -/

theorem even_add {a b : PAddr} (ha : a.getLsbD 0 = false) (hb : b.getLsbD 0 = false) : (a + b).getLsbD 0 = false := by
  rw [BitVec.getLsbD_add (by decide), ha, hb, BitVec.carry_zero]
  rfl

theorem even_add_two {a : PAddr} (h : a.getLsbD 0 = false) : (a + 2).getLsbD 0 = false := even_add h (by decide)

theorem framePc_even (w0 w1 : Word) : (framePc w0 w1).getLsbD 0 = false := by
  rw [framePc, BitVec.getLsbD_append]
  rfl

theorem braTarget_even {pc : PAddr} (slit16 : BitVec 16) (h : pc.getLsbD 0 = false) :
    (braTarget pc slit16).getLsbD 0 = false :=
  even_add (even_add h (by decide)) (by simp)

/-- The service routine of an exception that is not refused is at an even address (R118, D34). -/
theorem State.handler_even {e : Exc} {s : State} {target : PAddr} (h : s.handler e = .ok target) :
    target.getLsbD 0 = false := by
  unfold State.handler at h
  split at h
  · cases h
  · split at h
    · cases h
    · split at h
      · cases h
      · rename_i hbits
        cases h
        rw [Bool.not_eq_true, Bool.or_eq_false_iff] at hbits
        exact hbits.1

theorem State.afterInstr_even {s : State} {a : PAddr} (h : a.getLsbD 0 = false) : (s.afterInstr a).getLsbD 0 = false := by
  unfold State.afterInstr
  split
  · rw [show a + 4 = a + 2 + 2 by bv_omega]
    exact even_add_two (even_add_two h)
  · exact even_add_two h

/-! ### What is fetched is well formed -/

theorem decodeOne_wf {w : PWord} {i : Instr} (h : decodeOne w = .ok i) : i.wf = true := by
  unfold decodeOne at h
  repeat' split at h
  all_goals cases h
  all_goals rfl

/-- GOTO's target has bit 0 clear (R72). -/
theorem decodeGoto_wf {w1 w2 : PWord} {i : Instr} (h : decodeGoto w1 w2 = .ok i) : i.wf = true := by
  unfold decodeGoto at h
  split at h <;> cases h
  rw [Instr.wf, BitVec.getLsbD_append]
  rfl

theorem decode_wf {bs rest : List Byte} {i : Instr} (h : decode bs = .ok (i, rest)) : i.wf = true := by
  unfold decode at h
  split at h
  · split at h
    · split at h
      · split at h <;> cases h
        exact decodeGoto_wf ‹_›
      · cases h
    · split at h <;> cases h
      exact decodeOne_wf ‹_›
  · cases h

theorem State.fetch_wf {s : State} {i : Instr} (h : s.fetch = .next i) : i.wf = true := by
  unfold State.fetch at h
  split at h
  · cases h
  · split at h
    · split at h <;> cases h
      assumption
    · split at h <;> cases h
      exact decode_wf ‹_›

/-- The one fault of a fetch is that of an odd program counter (R50). -/
theorem State.odd_of_fetch_fault {s : State} {e : Fault} (h : s.fetch = .fault e) : s.pc.getLsbD 0 = true := by
  unfold State.fetch at h
  split at h
  · assumption
  · repeat' split at h
    all_goals cases h

/-! ### The nesting level of DO loops -/

/-- CORCON.DL is above the bits that entry and return write (R13). -/
theorem extract_dl_setBit {i : Nat} (v : Word) (b : Bool) (h : i < 8) :
    (setBit v i b).extractLsb' 8 3 = v.extractLsb' 8 3 := by
  apply BitVec.eq_of_getLsbD_eq
  intro j hj
  simp only [BitVec.getLsbD_extractLsb', getLsbD_setBit]
  rw [if_neg (by omega)]

@[simp] theorem State.dl_setDl (v : BitVec 3) (s : State) : (s.setDl v).dl = v := by
  unfold State.dl State.setDl
  apply BitVec.eq_of_getLsbD_eq
  intro j hj
  simp only [BitVec.getLsbD_extractLsb', getLsbD_mergeBits, hj, decide_true, Bool.true_and]
  interval_cases j <;> simp

end Sys2Proof.Machine
end

section
/-! SUPPORT. What the shared operations may make of the program counter, the DO loops and the memories: checks and registers,
resets, software writes of special function registers, stores, pushes and pops, entry and return. -/

namespace Sys2Proof.Machine

open Sys2Proof

/-- State `t` is what a part of a step may make of `s`: the program and the device are the same (R68), data memory stays in canonical
form, and the program counter and the DO loops stay even (R50). -/
structure State.Steady (s t : State) : Prop where
  program : s.sameProgram t
  ram : Memory.wf ramUnlisted s.ram = true → Memory.wf ramUnlisted t.ram = true
  aligned : s.pcAligned → t.pcAligned

/-- A part of a step that may stop: its next state is steady, and it faults only where the program counter is not aligned. -/
def State.Steadily (s : State) : Result → Prop
  | .next t => s.Steady t
  | .fault _ => ¬s.pcAligned
  | .refused _ => True

/-- The fields that `State.Steady` speaks of. -/
def State.layout (s : State) :
    PAddr × BitVec 3 × Vector DoFrame 4 × Memory × Memory × List (PAddr × Instr) × Device :=
  (s.pc, s.dl, s.doStack, s.ram, s.prog, s.symbolic, s.dev)

namespace State.Steady

variable {s t u : State}

theorem trans (h : s.Steady t) (h' : t.Steady u) : s.Steady u where
  program :=
    have ⟨hp, hs, hd⟩ := h.program
    have ⟨hp', hs', hd'⟩ := h'.program
    ⟨hp'.trans hp, hs'.trans hs, hd'.trans hd⟩
  ram := h'.ram ∘ h.ram
  aligned := h'.aligned ∘ h.aligned

theorem of_layout (h : t.layout = s.layout) : s.Steady t := by
  simp only [State.layout, Prod.mk.injEq] at h
  obtain ⟨hpc, hdl, hdo, hram, hprog, hsym, hdev⟩ := h
  refine ⟨⟨hprog, hsym, hdev⟩, ?_, ?_⟩
  · rw [hram]; exact id
  · unfold State.pcAligned; rw [hpc, hdl, hdo, hdev]; exact id

theorem refl (s : State) : s.Steady s := of_layout rfl

/-- Fields outside the layout are no matter. -/
theorem same (h : s.Steady t) (hu : u.layout = t.layout) : s.Steady u := h.trans (of_layout hu)

theorem of_ite {c : Prop} [Decidable c] (ht : c → s.Steady t) (hu : ¬c → s.Steady u) :
    s.Steady (if c then t else u) := by
  split
  · exact ht ‹_›
  · exact hu ‹_›

/-! #### The fields of the layout changed -/

/-- The program counter moves to an even address. -/
theorem withPc {a : PAddr} (h : s.Steady t) (ha : s.pcAligned → a.getLsbD 0 = false) : s.Steady (t.setPc a) where
  program := h.program
  ram := h.ram
  aligned hs := ⟨ha hs, (h.aligned hs).2⟩

theorem advance (h : s.Steady t) : s.Steady t.advance := h.withPc fun hs => even_add_two (h.aligned hs).1

theorem setRamByte {a : Word} {v : Byte} (h : s.Steady t) : s.Steady (t.setRamByte a v) where
  program := h.program
  ram hs := Memory.set_wf (h.ram hs) a.toNat v
  aligned := h.aligned

theorem setRamWord {a v : Word} (h : s.Steady t) : s.Steady (t.setRamWord a v) := h.setRamByte.setRamByte

/-- CORCON changed outside DL. -/
theorem withCorcon {v : Word} (h : s.Steady t) (hv : v.extractLsb' 8 3 = t.corcon.extractLsb' 8 3) :
    s.Steady { t with corcon := v } :=
  h.same (by simp only [State.layout, State.dl, hv])

/-- A device reset goes to the Reset location, with no DO loop and no data memory written (R35, R180, R184). -/
theorem deviceReset {c : ResetCause} (h : s.Steady t) : s.Steady (t.deviceReset c) where
  program := h.program
  ram _ := rfl
  aligned hs := ⟨(h.aligned hs).2.1, (h.aligned hs).2.1, by simp [State.dl], fun k hk => by simp [State.dl] at hk⟩

theorem settle {ipl : Nat} (h : s.Steady t) : s.Steady (t.settle ipl) := by
  rcases State.settle_cases ipl t with e | ⟨-, e⟩ <;> rw [e]
  · exact h.same rfl
  · exact h.deviceReset

/-! #### What leaves the layout -/

theorem fresh (h : s.Steady t) : s.Steady t.fresh := h.same rfl

theorem draw (h : s.Steady t) : s.Steady t.draw := h.same rfl

theorem execFlags (h : s.Steady t) : s.Steady t.execFlags := h.same rfl

theorem raiseHard {k : HardTrap} (h : s.Steady t) : s.Steady (t.raiseHard k) :=
  h.same (by simp [State.layout, State.dl])

/-- A hard trap condition raised where some condition holds. -/
theorem raiseHard_if {c : Prop} [Decidable c] {k : HardTrap} (h : s.Steady t) :
    s.Steady (if c then t.raiseHard k else t) :=
  of_ite (fun _ => h.raiseHard) fun _ => h

theorem stackCheck {ea : Word} {c : Bool} (h : s.Steady t) : s.Steady (t.stackCheck ea c) :=
  h.same (by simp [State.layout, State.dl])

theorem underflowCheck (h : s.Steady t) : s.Steady t.underflowCheck := h.same (by simp [State.layout, State.dl])

theorem underflowAfter {used : Bool} {old : Word} (h : s.Steady t) : s.Steady (t.underflowAfter used old) :=
  h.same (by simp [State.layout, State.dl])

theorem pointerCheck {p : WReg} {ea : Word} {c : Bool} (h : s.Steady t) : s.Steady (t.pointerCheck p ea c) :=
  h.same (by simp [State.layout, State.dl])

theorem operandCheck {op : Operand} (h : s.Steady t) : s.Steady (t.operandCheck op) :=
  h.same (by simp [State.layout, State.dl])

theorem dwCheck {op : DwOperand} (h : s.Steady t) : s.Steady (t.dwCheck op) := h.same (by simp [State.layout, State.dl])

theorem writeW {i : WReg} {v : Word} (h : s.Steady t) : s.Steady (t.writeW i v) :=
  h.same (by simp [State.layout, State.dl])

theorem freeRegs {is : List WReg} (h : s.Steady t) : s.Steady (t.freeRegs is) := h.same (by simp [State.layout, State.dl])

theorem setAcc {acc : AccSel} {v : Acc} (h : s.Steady t) : s.Steady (t.setAcc acc v) :=
  h.same (by simp [State.layout, State.dl])

theorem macResult {acc : AccSel} (h : s.Steady t) : s.Steady (t.macResult acc) := h.same (by simp [State.layout, State.dl])

theorem setIfs {n : Nat} (h : s.Steady t) : s.Steady (t.setIfs n) := h.same (by simp [State.layout, State.dl])

theorem setSfa {b : Bool} (h : s.Steady t) : s.Steady (t.setSfa b) := h.withCorcon (extract_dl_setBit _ _ (by decide))

theorem pop16 (h : s.Steady t) : s.Steady t.pop16 := h.same (by simp [State.layout, State.dl])

theorem restoreCtx (h : s.Steady t) : s.Steady t.restoreCtx := h.same (by simp [State.layout, State.dl])

theorem latch {e : Exc} {level : Nat} (h : s.Steady t) : s.Steady (t.latch e level) :=
  h.same (by simp [State.layout, State.dl])

theorem selectCtx {e : Exc} {level : Nat} (h : s.Steady t) : s.Steady (t.selectCtx e level) :=
  h.same (by simp [State.layout, State.dl])

/-- A trap's entry sets IPL3 (R117), an interrupt's leaves CORCON. -/
theorem enterPriority {e : Exc} {level : Nat} (h : s.Steady t) : s.Steady (t.enterPriority e level) := by
  cases e with
  | irq n => exact h.same rfl
  | trap tr => exact (h.withCorcon (extract_dl_setBit t.corcon true (i := 3) (by decide))).same rfl

end State.Steady

namespace State.Steadily

variable {s t : State} {r : Result}

theorem trans (h : s.Steady t) (hr : t.Steadily r) : s.Steadily r := by
  cases r with
  | next u => exact h.trans hr
  | fault e => exact fun hs => hr (h.aligned hs)
  | refused e => trivial

/-- One part after another. -/
theorem andThen {f : State → Result} (hr : s.Steadily r) (hf : ∀ t, s.Steady t → s.Steadily (f t)) :
    s.Steadily (andThen r f) := by
  cases r with
  | next t => exact hf t hr
  | fault e => exact hr
  | refused e => trivial

theorem of_ite {c : Prop} [Decidable c] {r' : Result} (ht : c → s.Steadily r) (hu : ¬c → s.Steadily r') :
    s.Steadily (if c then r else r') := by
  split
  · exact ht ‹_›
  · exact hu ‹_›

/-! #### Stores and the stack -/

/-- A software write of a special function register: DL is read-only (R13, R98). -/
theorem writeSfr {k : Sfr} {mask value : Word} (h : s.Steady t) : s.Steadily (t.writeSfr k mask value) := by
  cases k
  case corcon => exact h.withCorcon (extractLsb'_writeBits_of_readOnly (by decide) (by decide))
  case intcon2 =>
    refine of_ite (fun _ => trivial) fun _ => h.same ?_
    rw [State.writeIntcon2_frame]
    rfl
  case disicnt => exact State.Steady.of_ite (fun _ => h) fun _ => .of_ite (fun _ => h.same rfl) fun _ => h.same rfl
  all_goals exact h.same rfl

theorem storeWord {a v : Word} (h : s.Steady t) : s.Steadily (t.storeWord a v) := by
  rcases State.storeWord_cases a v t with ⟨k, -, e⟩ | ⟨-, e⟩ <;> rw [e]
  · exact writeSfr h
  · exact h.setRamWord

theorem storeByte {a : Word} {v : Byte} (h : s.Steady t) : s.Steadily (t.storeByte a v) := by
  rcases State.storeByte_cases a v t with ⟨k, mask, value, -, e⟩ | ⟨-, e⟩ <;> rw [e]
  · exact writeSfr h
  · exact h.setRamByte

theorem storeBit {a : Word} {i : Fin 16} {b : Bool} (h : s.Steady t) : s.Steadily (t.storeBit a i b) := by
  unfold State.storeBit
  split
  · exact writeSfr h
  · exact h.setRamByte

theorem push16 {v : Word} (h : s.Steady t) : s.Steadily (t.push16 v) :=
  andThen (of_ite (fun _ => h.stackCheck.raiseHard) fun _ => storeWord h.stackCheck) fun _ hu => hu.same rfl

theorem pushPair {lo hi : Word} (h : s.Steady t) : s.Steadily (t.pushPair lo hi) :=
  of_ite (fun _ => h.stackCheck.stackCheck.raiseHard.same rfl) fun _ => andThen (push16 h) fun _ hu => push16 hu

/-! #### Entry and return -/

/-- Taking an exception goes to the address that its vector holds, which is even (R118). -/
theorem takeException {e : Exc} (h : s.Steady t) : s.Steadily (t.takeException e) := by
  unfold State.takeException
  dsimp only
  split
  · trivial
  · rename_i target htarget
    have henter {u : State} (level : Nat) (hu : s.Steady u) : s.Steady (u.enterAfterPush e level target) := by
      have hsfa : s.Steady (u.setSfa false) := hu.setSfa
      exact (hsfa.enterPriority.latch.selectCtx.underflowCheck.withPc fun _ => State.handler_even htarget).same rfl
    exact andThen (push16 h.fresh) fun t1 h1 => andThen (push16 h1) fun t2 h2 => (henter _ h2).settle

end State.Steadily

/-- The return from an exception goes to an even address, whatever the frame holds (R81). -/
theorem State.Steady.exceptionReturn (s : State) : s.Steady s.exceptionReturn := by
  have hunstack (w0 w1 : Word) {x : State} (h : s.Steady x) : s.Steady (x.unstack w0 w1) := by
    have hcorcon : (setBit (setBit x.corcon 3 (w1.getLsbD 7)) 2 (w0.getLsbD 0)).extractLsb' 8 3 = x.corcon.extractLsb' 8 3 :=
      (extract_dl_setBit _ _ (by decide)).trans (extract_dl_setBit _ _ (by decide))
    exact ((h.withCorcon hcorcon).withPc fun _ => framePc_even w0 w1).same rfl
  exact (hunstack _ _ (refl s).fresh.pop16.pop16).restoreCtx.underflowCheck.settle

end Sys2Proof.Machine
end

section
/-! SUPPORT. What every instruction, every event of the environment and so every step may make of the program counter, the DO loops
and the memories, and the statements read off it (O56, O57). -/

namespace Sys2Proof.Machine.State.Steadily

open Sys2Proof Sys2Proof.Machine

variable {s t : State}

/-! ### Control transfers and loops -/

/-- Control goes to an even target, implemented or not (R56). -/
theorem transfer {target : PAddr} (ht : s.pcAligned → target.getLsbD 0 = false) : s.Steady (s.transfer target) := by
  have hraise : s.Steady (if s.fresh.dev.progAt target then s.fresh else s.fresh.raiseHard .addr) :=
    Steady.of_ite (fun _ => (Steady.refl s).fresh) fun _ => (Steady.refl s).fresh.raiseHard
  exact (hraise.withPc ht).settle

theorem execRet (s : State) : s.Steadily (execRet s) := by
  have hreturn (w0 w1 : Word) (b : Bool) (n : Nat) {x : State} (h : s.Steady x) :
      s.Steady { x with corcon := setBit x.corcon 2 b, pc := framePc w0 w1, free := n } :=
    ((h.setSfa (b := b)).withPc fun _ => framePc_even w0 w1).same rfl
  exact (hreturn _ _ _ _ (Steady.refl s).fresh.pop16.pop16).underflowCheck.settle

/-- A loop pushed below the top of the DO stack starts at the instruction after the DO, which is even. -/
theorem pushLoop {count : Word} {stop : PAddr} (hdl : s.dl ≠ 4) : s.Steady (s.pushLoop count stop) := by
  unfold State.pushLoop
  split
  · rename_i hlt
    have hnext : (s.dl + 1).toNat = s.dl.toNat + 1 := by bv_omega
    refine ⟨⟨rfl, rfl, rfl⟩, id, fun ⟨hpc, hreset, _, hstarts⟩ => ⟨hpc, hreset, ?_, fun k hk => ?_⟩⟩
    · rw [State.dl_setDl, hnext]
      exact hlt
    · rw [State.dl_setDl, hnext] at hk
      by_cases hks : s.dl.toNat = k.val
      · simpa [State.setDl, hks] using even_add_two hpc
      · simpa [State.setDl, hks] using hstarts k (by omega)
  · refine ⟨⟨rfl, rfl, rfl⟩, id, fun ⟨_, _, hle, _⟩ => absurd ?_ hdl⟩
    bv_omega

theorem execDoLoop (count : Word) (stop : PAddr) (s : State) : s.Steadily (execDoLoop count stop s) :=
  of_ite (fun _ => trivial) fun _ => of_ite (fun _ => Steady.advance (Steady.of_layout rfl)) fun hdl =>
    (pushLoop hdl).execFlags.advance

/-- The end of a DO loop's body goes back to the start of a loop in progress, or ends the innermost one. -/
theorem loopEnd {a : PAddr} (h : s.Steady t) : s.Steady (t.loopEnd a) := by
  unfold State.loopEnd
  split
  · rename_i hdl
    refine Steady.of_ite (fun _ => Steady.of_ite (fun _ => ?_) fun _ => ?_) fun _ => h
    · have hstart (hs : s.pcAligned) : t.doStack[t.dl.toNat - 1].start.getLsbD 0 = false :=
        (h.aligned hs).2.2.2 ⟨t.dl.toNat - 1, by omega⟩ (Nat.sub_lt hdl.1 Nat.one_pos)
      exact Steady.withPc (h.same rfl) hstart
    · refine h.trans ⟨⟨rfl, rfl, rfl⟩, id, fun ⟨hpc, hreset, hle, hstarts⟩ => ⟨hpc, hreset, ?_, fun k hk => ?_⟩⟩
      · rw [State.dl_setDl]
        bv_omega
      · rw [State.dl_setDl] at hk
        exact hstarts k (by bv_omega)
  · exact h

theorem skipNext (h : s.Steady t) : s.Steady t.skipNext :=
  (h.withPc fun hs => State.afterInstr_even (even_add_two (h.aligned hs).1)).same rfl

theorem testSkip (want : Bool) (bit : Fin 16) (op : Operand) (s : State) : s.Steady (s.testSkip want bit op) := by
  have hcheck : s.Steady (s.fresh.operandCheck op) := (Steady.refl s).fresh.operandCheck
  refine Steady.of_ite (fun _ => hcheck.raiseHard.advance.underflowAfter.settle) fun _ => ?_
  have hflags := (hcheck.raiseHard_if (c := s.fresh.badRead .word op = true) (k := .addr)).draw.execFlags
  exact (Steady.of_ite (fun _ => skipNext hflags) fun _ => hflags.advance).underflowAfter.settle

/-! ### The math error sources -/

theorem execSftac (acc : AccSel) (amount : ShiftAmount) (s : State) : s.Steadily (execSftac acc amount s) :=
  of_ite (fun _ => trivial) fun _ => of_ite (fun _ => Steady.advance (Steady.of_layout rfl)) fun _ =>
    (Steady.refl s).setAcc.draw.execFlags.advance

theorem execDiv (divisor : WReg) (first : Bool) (dsts : List WReg) (s : State) :
    s.Steadily (execDiv divisor first dsts s) := by
  have hcheck : s.Steady (if (first && (s.fresh.readW divisor == 0)) = true then s.fresh.divideError else s.fresh) :=
    Steady.of_ite (fun _ => Steady.of_layout rfl) fun _ => (Steady.refl s).fresh
  exact hcheck.freeRegs.execFlags.advance.underflowAfter

theorem execMacClass (acc : AccSel) (x y : WReg) (dsts : List WReg) (s : State) :
    s.Steadily (execMacClass acc x y dsts s) :=
  of_ite (fun _ => trivial) fun _ =>
    (Steady.refl s).fresh.pointerCheck.pointerCheck.raiseHard_if.macResult.freeRegs.advance.underflowAfter.settle

/-! ### Data accesses -/

theorem finish {used : Bool} {x : State} (h : s.Steady t) : s.Steady (x.finish used t) := h.advance.underflowAfter.settle

theorem execBitManip (size : Size) (bit : Fin 16) (op : Operand) (s : State) : s.Steadily (execBitManip size bit op s) := by
  have hcheck : s.Steady (s.fresh.operandCheck op) := (Steady.refl s).fresh.operandCheck
  refine of_ite (fun _ => finish hcheck.raiseHard) fun _ => ?_
  cases op with
  | direct w => exact finish hcheck.writeW.draw.execFlags
  | indirect w =>
    exact of_ite (fun _ => finish hcheck.raiseHard.execFlags) fun _ =>
      andThen (storeBit hcheck.draw.execFlags) fun _ hu => finish hu
  | paged w => exact of_ite (fun _ => finish hcheck.raiseHard.execFlags) fun _ => trivial

theorem dwStore {dst : DwOperand} {lo hi : Word} (h : s.Steady t) : s.Steadily (t.dwStore dst lo hi) := by
  cases dst with
  | pair p => exact h.writeW.writeW
  | indirect w => exact andThen (storeWord h) fun _ hu => storeWord hu
  | paged w => trivial

theorem execMovD (src dst : DwOperand) (s : State) : s.Steadily (execMovD src dst s) := by
  have hraise {c : Prop} [Decidable c] : s.Steady (if c then ((s.fresh.dwCheck src).dwCheck dst).raiseHard .addr
      else (s.fresh.dwCheck src).dwCheck dst).draw.draw.execFlags :=
    (Steady.refl s).fresh.dwCheck.dwCheck.raiseHard_if.draw.draw.execFlags
  exact of_ite (fun _ => finish hraise) fun _ => andThen (dwStore hraise) fun _ hu => finish hu

theorem execTblrd (ptr dst : WReg) (s : State) : s.Steadily (execTblrd ptr dst s) :=
  finish (Steady.refl s).fresh.pointerCheck.writeW.draw.execFlags

theorem execSfrWrite (reg : Sfr) (mask value : Word) (s : State) : s.Steadily (execSfrWrite reg mask value s) :=
  andThen (writeSfr (Steady.refl s).fresh) fun _ hu => finish hu

/-! ### Accesses through W15 -/

theorem finishStack {x : State} (h : s.Steady t) : s.Steady (x.finishStack t) := h.advance.underflowCheck.settle

theorem stackLoad {size : Size} {ea : Word} {dst : WReg} {src : State} (h : s.Steady t) :
    s.Steady (t.stackLoad size ea dst src) := by
  refine Steady.of_ite (fun _ => h.raiseHard.writeW.draw) fun _ => ?_
  cases size with
  | byte => exact h.writeW.draw
  | word => exact h.writeW

theorem stackStore {size : Size} {ea v : Word} (h : s.Steady t) : s.Steadily (t.stackStore size ea v) := by
  refine of_ite (fun _ => h.raiseHard) fun _ => ?_
  cases size with
  | byte => exact storeByte h
  | word => exact storeWord h

/-- A call goes to its target, which a well-formed call has even (R99). -/
theorem stackCall {target : BitVec 23} (h : s.Steady t) (ht : (target.zeroExtend 24 : PAddr).getLsbD 0 = false) :
    s.Steadily (t.stackCall target) :=
  andThen (pushPair h.draw) fun _ hu => (hu.setSfa.withPc fun _ => ht).underflowCheck.settle

theorem stackLink {lit14 : BitVec 14} (h : s.Steady t) : s.Steadily (t.stackLink lit14) :=
  andThen (push16 h.draw) fun u hu => by
    have hw : s.Steady (u.writeW 14 u.w15) := hu.writeW
    exact finishStack (Steady.setSfa (hw.same rfl))

theorem stackUnlink (h : s.Steady t) : s.Steady t.stackUnlink := by
  have hw : s.Steady { t with w15 := t.readW 14 } := h.same rfl
  exact finishStack hw.pop16.writeW.draw.setSfa

theorem execW15Access {op : StackOp} (hwf : stackOpOk op = true) (s : State) : s.Steadily (execW15Access op s) := by
  have hs : s.Steady s.fresh := (Steady.refl s).fresh
  cases op with
  | push src => exact andThen (push16 hs) fun _ hu => finishStack hu
  | pop dst => exact finishStack hs.pop16.writeW
  | load size disp dst => exact finishStack (stackLoad hs.stackCheck)
  | store size disp src => exact andThen (stackStore hs.stackCheck) fun _ hu => finishStack hu
  | call target => exact stackCall hs (by simpa [stackOpOk] using hwf)
  | link lit14 => exact stackLink hs
  | unlink => exact stackUnlink hs

/-! ### Every instruction -/

/-- Every well-formed instruction is steady, and none faults (R50, R68). -/
theorem exec {i : Instr} (hwf : i.wf = true) (s : State) : s.Steadily (exec i s) := by
  cases i with
  | nop => exact (Steady.refl s).advance
  | disi lit14 => exact (Steady.refl s).advance.same rfl
  | retfie => exact Steady.exceptionReturn s
  | ret => exact execRet s
  | reset => exact (Steady.refl s).deviceReset
  | pwrsav m => exact (Steady.refl s).advance.same rfl
  | goto target => exact transfer fun _ => by simpa [Instr.wf] using hwf
  | bra slit16 => exact transfer fun hs => braTarget_even slit16 hs.1
  | sftac acc amount => exact execSftac acc amount s
  | div divisor first dsts => exact execDiv divisor first dsts s
  | repeatLoop => trivial
  | doLoop count stop => exact execDoLoop count stop s
  | macClass acc x y dsts => exact execMacClass acc x y dsts s
  | bitManip size bit op => exact execBitManip size bit op s
  | movD src dst => exact execMovD src dst s
  | tblrd ptr dst => exact execTblrd ptr dst s
  | btsc bit op => exact testSkip false bit op s
  | btss bit op => exact testSkip true bit op s
  | sfrWrite reg mask value => exact execSfrWrite reg mask value s
  | w15Access op => exact execW15Access hwf s

/-! ### The environment -/

/-- A bus agent writes data memory or sets its flag (R66). -/
theorem agentWrite (a : Word) (v : Byte) (flag : Word) (s : State) : s.Steady (s.agentWrite a v flag) :=
  Steady.of_ite (fun _ => Steady.refl s) fun _ => Steady.of_ite (fun _ => (Steady.refl s).setRamByte) fun _ => Steady.of_layout rfl

theorem pinEdge (k : Fin 5) (level : Bool) (s : State) : s.Steady (s.pinEdge k level) := by
  have hpin : s.Steady { s with pins := s.pins.set k.val level } := Steady.of_layout rfl
  refine Steady.of_ite (fun _ => ?_) fun _ => hpin
  split
  · exact hpin.setIfs
  · exact hpin

theorem event (e : EnvEvent) (s : State) : s.Steady (s.event e) := by
  have hflag {unit : Bool} {u : State} (hu : u.layout = s.layout) : s.Steady (if unit then u else s) :=
    Steady.of_ite (fun _ => Steady.of_layout hu) fun _ => Steady.refl s
  have hagent {unit : Bool} {a : Word} {v : Byte} {m : Word} : s.Steady (if unit then s.agentWrite a v m else s) :=
    Steady.of_ite (fun _ => agentWrite a v m s) fun _ => Steady.refl s
  cases e with
  | irq n => exact (Steady.refl s).setIfs
  | oscFail => exact (Steady.refl s).raiseHard.settle
  | dmaWrite a v => exact hagent
  | usbWrite a v => exact hagent
  | pin k level => exact pinEdge k level s
  | deviceReset => exact (Steady.refl s).deviceReset (c := .other)
  | dmaCollision | dmaAddrError | usbAddrError | nvmAddrError | usbPllUnlock | apllUnlock => exact hflag rfl

theorem environment (h : s.Steady t) : s.Steady t.environment := by
  have hscript : s.Steady { t with env := t.env.tail } := h.same rfl
  exact (State.events_keeps (P := s.Steady) (fun x e hx => hx.trans (event e x)) (t.env.headD []) _ hscript).fresh

/-! ### The step -/

theorem tickDisi (h : s.Steady t) : s.Steady t.tickDisi := Steady.of_ite (fun _ => h.same rfl) fun _ => h

/-- What is fetched is well formed, and a fetch faults only at an odd program counter. -/
theorem runInstr (s : State) : s.Steadily s.runInstr := by
  refine of_ite (fun _ => ?_) fun _ => (Steady.refl s).fresh.raiseHard.settle
  split
  · rename_i i hfetch
    exact andThen (exec (State.fetch_wf hfetch) s) fun _ hu => loopEnd hu
  · rename_i e hfetch
    exact fun hs => Bool.false_ne_true (hs.1.symm.trans (State.odd_of_fetch_fault hfetch))
  · trivial

theorem boundary (e : Option Exc) (s : State) : s.Steadily (s.boundary e) := by
  have hcounts (skid bound free : Nat) : s.Steady { s with skid := skid, skidBound := bound, free := free } := Steady.of_layout rfl
  cases e with
  | none => exact trans (hcounts 0 s.skidBound s.free) (runInstr _)
  | some e =>
    have hwaits : s.Steadily s.waiting.runInstr := trans (hcounts (s.skid + 1) s.skidLimit (s.free + 1)) (runInstr _)
    exact of_ite (fun _ => takeException (Steady.refl s)) fun _ => of_ite
      (fun _ => andThen hwaits fun _ ht => of_ite (fun _ => ht) fun _ => takeException (Steady.refl s).draw)
      fun _ => takeException (Steady.refl s).draw

/-- Every step is steady, and faults only where the program counter is not aligned. -/
theorem step (s : State) : s.Steadily (step s) := by
  have hwake : s.Steady s.fresh.wake := by
    rw [State.wake_frame]
    exact Steady.of_layout rfl
  refine andThen (of_ite (fun _ => ?_) fun _ => hwake) fun _ ht => environment ht
  exact andThen (trans (t := s.fresh.wake.tickGie) (hwake.same rfl) (boundary _ _)) fun _ hu => tickDisi hu

end Sys2Proof.Machine.State.Steadily

namespace Sys2Proof.Proofs

open Sys2Proof Sys2Proof.Machine

/-- Settles O56: every part of a step keeps the alignment, and the fetch at an even program counter does not fault. -/
theorem stepKeepsPcAligned : Obligations.StepKeepsPcAligned := by
  intro s haligned
  have hsteady := State.Steadily.step s
  refine ⟨fun t ht => ?_, fun e he => ?_⟩
  · rw [ht] at hsteady
    exact hsteady.aligned haligned
  · rw [he] at hsteady
    exact hsteady haligned

/-- Settles O57: data memory is written by `Memory.set` alone, which keeps the canonical form, and nothing writes program memory. -/
theorem stepKeepsMemories : Obligations.StepKeepsMemories := by
  intro s t ⟨hram, hprog⟩ hstep
  have hsteady := State.Steadily.step s
  rw [hstep] at hsteady
  have ⟨hprogram, _, _⟩ := hsteady.program
  exact ⟨⟨hsteady.ram hram, hprogram ▸ hprog⟩, hsteady.program⟩

end Sys2Proof.Proofs
end

section
/-! SUPPORT. The two conditions that an access can detect, an address error and a stack error, as one update of the state, and what
each check and the end of an access make of it (R53 to R55, R131, R133, R147). -/

namespace Sys2Proof.Machine

open Sys2Proof

/-- A step detects an address error, a stack error, both or none: their flags are set and the log has them (R131, R133, R147). -/
def State.detected (addr stk : Bool) (s : State) : State :=
  { s with
    intcon1 := s.intcon1 ||| (if addr then 0x0008 else 0) ||| (if stk then 0x0004 else 0)
    log := { s.log with addr := s.log.addr || addr, stk := s.log.stk || stk } }

/-- An effective address made from W15 fails the overflow check (R133). -/
def State.pastLimit (s : State) (ea : Word) : Bool := s.splimWritten && decide (s.splim < ea)

theorem State.pastLimit_iff {s : State} {ea : Word} : s.pastLimit ea = true ↔ s.overLimit ea := by
  simp [State.pastLimit, State.overLimit]

/-! ### The checks -/

theorem State.raiseHard_addr (s : State) : s.raiseHard .addr = s.detected true false := by
  simp [State.raiseHard, State.detected]

theorem State.detected_none (s : State) : s.detected false false = s := by simp [State.detected]

/-- Conditions detected one after another are detected together. -/
@[simp] theorem State.detected_detected (s : State) (a k a' k' : Bool) :
    (s.detected a k).detected a' k' = s.detected (a || a') (k || k') := by
  have h : s.intcon1 ||| (if a then 0x0008 else 0) ||| (if k then 0x0004 else 0) ||| (if a' then 0x0008 else 0)
      ||| (if k' then 0x0004 else 0) =
      s.intcon1 ||| (if a || a' then 0x0008 else 0) ||| (if k || k' then 0x0004 else 0) := by
    apply BitVec.eq_of_getLsbD_eq
    intro i hi
    cases a <;> cases k <;> cases a' <;> cases k' <;> simp <;> grind
  simp only [State.detected, h, Bool.or_assoc]

theorem State.stackCheck_detected (s : State) (ea : Word) (c : Bool) :
    s.stackCheck ea c = s.detected false (s.pastLimit ea || c) := by
  simp [State.stackCheck_eq, State.detected, State.pastLimit]

theorem State.underflowCheck_detected (s : State) : s.underflowCheck = s.detected false (decide (s.w15 < 0x1000)) := by
  simp [State.underflowCheck_eq, State.detected]

/-- The checks of a pointer are those of R99 where it is W15. -/
theorem State.pointerCheck_detected (s : State) (p : WReg) (ea : Word) (c : Bool) :
    s.pointerCheck p ea c = s.detected false (p.val == 15 && (s.pastLimit ea || c)) := by
  unfold State.pointerCheck
  split
  · rename_i h
    rw [State.stackCheck_detected, h]
    rfl
  · rename_i h
    rw [beq_false_of_ne h, Bool.false_and, State.detected_none]

theorem State.underflowAfter_detected (s : State) (used : Bool) (old : Word) :
    s.underflowAfter used old = s.detected false ((used || s.w15 != old) && decide (s.w15 < 0x1000)) := by
  unfold State.underflowAfter
  split
  · rename_i h
    rw [h.1, h.2, bne_self_eq_false, Bool.or_false, Bool.false_and, State.detected_none]
  · rename_i h
    have hmade : (used || s.w15 != old) = true := by cases used <;> simp_all
    rw [State.underflowCheck_detected, hmade, Bool.true_and]

/-! ### The conditions beside other updates -/

section
variable (s : State) (a k : Bool)

@[simp] theorem State.detected_draw : (s.detected a k).draw = s.draw.detected a k := rfl
@[simp] theorem State.detected_advance : (s.detected a k).advance = s.advance.detected a k := rfl
@[simp] theorem State.detected_execFlags : (s.detected a k).execFlags = s.execFlags.detected a k := rfl
@[simp] theorem State.detected_setPc (p : PAddr) : (s.detected a k).setPc p = (s.setPc p).detected a k := rfl
@[simp] theorem State.detected_setSfa (b : Bool) : (s.detected a k).setSfa b = (s.setSfa b).detected a k := rfl
@[simp] theorem State.detected_skipNext : (s.detected a k).skipNext = s.skipNext.detected a k := rfl
@[simp] theorem State.detected_readW (i : WReg) : (s.detected a k).readW i = s.readW i := rfl
@[simp] theorem State.detected_w15 : (s.detected a k).w15 = s.w15 := rfl
@[simp] theorem State.detected_free : (s.detected a k).free = s.free := rfl
@[simp] theorem State.detected_pastLimit (ea : Word) : (s.detected a k).pastLimit ea = s.pastLimit ea := rfl
@[simp] theorem State.detected_badAccess (size : Size) (ea : Word) :
    (s.detected a k).badAccess size ea = s.badAccess size ea := rfl

@[simp] theorem State.detected_writeW (i : WReg) (v : Word) : (s.detected a k).writeW i v = (s.writeW i v).detected a k := by
  have hbank (j : Nat) : (s.detected a k).bankOf j = s.bankOf j := rfl
  unfold State.writeW
  split
  · rw [hbank]
    split <;> rfl
  · rfl

@[simp] theorem State.detected_freeRegs (is : List WReg) : (s.detected a k).freeRegs is = (s.freeRegs is).detected a k := by
  induction is generalizing s with
  | nil => rfl
  | cons i is ih => simp only [State.freeRegs, State.detected_writeW, State.detected_free, State.detected_draw, ih]

end

/-! ### The end of an access -/

theorem State.detected_log {x : State} {a k : Bool} (hlog : x.log = {}) : (x.detected a k).log = { addr := a, stk := k } := by
  simp [State.detected, hlog]

theorem State.logged_detected {s : State} (h : s.logged) (a k : Bool) : (s.detected a k).logged := by
  have haddr : (s.detected a false).logged := by
    cases a
    · rwa [State.detected_none]
    · rw [← State.raiseHard_addr]
      exact State.logged_raiseHard h .addr
  cases k
  · exact haddr
  · have hstk : (s.detected a false).stackError = s.detected a true := by simp [State.stackError, State.detected]
    rw [← hstk]
    exact State.logged_stackError haddr

/-- A step that detected an address error or a stack error at most ends without a conflict where no address error conflicts (R127). -/
theorem State.settle_detected {s x : State} {a k : Bool} (hlog : x.log = {}) (hflags : x.intcon1.getLsbD 1 = s.intcon1.getLsbD 1)
    (hfree : a = true → s.addrErrorFree) : (x.detected a k).settle s.cpuIpl = x.detected a k := by
  refine State.settle_of_calm (State.logged_detected (State.logged_of_empty hlog) a k) ?_
  cases a
  · refine State.hardConflict_of_quiet ?_ ?_ ?_ <;> rw [State.detected_log hlog]
  · obtain ⟨hipl, hosc⟩ := hfree rfl
    have hosc' : (x.detected true k).trapRequest .oscillator = false := by
      have h1 : x.intcon1.getLsbD 1 = false := hflags.trans hosc
      cases k <;> simpa [State.trapRequest, State.detected] using h1
    have hlevel : ¬14 ≤ s.cpuIpl := Nat.not_le.mpr hipl
    simp [State.hardConflict, hosc', hlevel, State.detected_log hlog]

/-- The end of a data access of `s` from state `x`, which has the flags of `s` and nothing logged (R99, R133, R147). -/
theorem State.finish_detected {s x : State} {used a k : Bool} (hlog : x.log = {}) (hflags : x.intcon1 = s.intcon1)
    (hfree : a = true → s.addrErrorFree) : s.fresh.finish used (x.detected a k) =
      x.advance.detected a (k || ((used || x.w15 != s.w15) && decide (x.w15 < 0x1000))) := by
  simp only [State.finish, State.detected_advance, State.underflowAfter_detected, State.detected_detected, Bool.or_false,
    State.detected_w15, State.advance_w15, State.fresh_w15]
  exact State.settle_detected (x := x.advance) hlog (congrArg (·.getLsbD 1) hflags) hfree

/-- The end of an access of `s` through W15 (R99). -/
theorem State.finishStack_detected {s x : State} {a k : Bool} (hlog : x.log = {}) (hflags : x.intcon1 = s.intcon1)
    (hfree : a = true → s.addrErrorFree) :
    s.fresh.finishStack (x.detected a k) = x.advance.detected a (k || decide (x.w15 < 0x1000)) := by
  simp only [State.finishStack, State.detected_advance, State.underflowCheck_detected, State.detected_detected, Bool.or_false,
    State.detected_w15, State.advance_w15]
  exact State.settle_detected (x := x.advance) hlog (congrArg (·.getLsbD 1) hflags) hfree

/-! ### What the statements about results say of it -/

/-- A stack error that the step has detected has its flag (R147). -/
theorem State.getLsbD_detected_stk {x : State} {a : Bool} (k : Bool) :
    (x.detected a k).intcon1.getLsbD 2 = (x.intcon1.getLsbD 2 || k) := by
  cases a <;> cases k <;> simp [State.detected]

theorem State.logIs_detected {x : State} {a k : Bool} (hlog : x.log = {}) :
    (x.detected a k).logIs False (a = true) False False := by
  rw [State.logIs, State.detected_log hlog, State.getLsbD_detected_stk]
  refine ⟨Bool.false_eq_true.to_iff, Iff.rfl, Bool.false_eq_true.to_iff, Bool.false_eq_true.to_iff, fun hk => ?_⟩
  rw [Bool.or_eq_true]
  exact .inr hk

theorem State.quiet_detected {x : State} {k : Bool} (hlog : x.log = {}) : (x.detected false k).quiet := by
  simpa [State.quiet] using State.logIs_detected (a := false) (k := k) hlog

theorem State.addrLogged_detected {x : State} {k : Bool} (hlog : x.log = {}) : (x.detected true k).addrLogged := by
  simpa [State.addrLogged] using State.logIs_detected (a := true) (k := k) hlog

theorem stackFlag_detected {s x : State} {k : Bool} {P : Prop} (hflags : x.intcon1 = s.intcon1) (hk : k = true ↔ P) :
    stackFlag s.intcon1 (x.detected false k).intcon1 P := by
  rw [stackFlag, ← hk]
  cases k <;> simp [State.detected, hflags]

theorem State.addrErrorSet_detected {s x : State} {k : Bool} {P : Prop} (hflags : x.intcon1 = s.intcon1) (hk : k = true ↔ P) :
    s.addrErrorSet (x.detected true k) P := by
  refine ⟨?_, ?_, ?_⟩
  · cases k <;> simp [State.detected]
  · apply BitVec.eq_of_getLsbD_eq
    intro i hi
    rw [← hflags]
    interval_cases i <;> cases k <;> simp [State.detected]
  · rw [State.getLsbD_detected_stk, hflags, Bool.or_eq_true, hk]

end Sys2Proof.Machine
end

section
/-! SUPPORT. Execution at an unimplemented program address (O11), and the push and the pop of a register (O42). -/

namespace Sys2Proof.Machine

open Sys2Proof

/-! ### An unimplemented program counter -/

/-- With nothing deliverable a step at an unimplemented address detects the address error and runs no instruction (R56). -/
theorem step_of_unimplemented {s : State} (hm : s.mode = .run) (hw : s.winner = none) (hp : s.dev.progAt s.pc = false) :
    step s = .next ((s.readied.detected true false).settle s.cpuIpl).tickDisi.environment := by
  have hrun : s.readied.runInstr = .next ((s.readied.fresh.raiseHard .addr).settle s.cpuIpl) := by
    simp only [State.runInstr, State.readied_dev, State.readied_pc, hp, Bool.false_eq_true, if_false]
    rfl
  rw [State.raiseHard_addr] at hrun
  simp only [step, State.cpuStep_of_quiet hm hw, hrun, andThen_next]
  rfl

/-- An address error at the end of an instruction that conflicts resets the device (R127). -/
theorem State.settle_addr_conflict {s x : State} {k : Bool} (hlog : x.log = {})
    (hflags : x.intcon1.getLsbD 1 = s.intcon1.getLsbD 1) (hnot : ¬s.addrErrorFree) :
    (x.detected true k).settle s.cpuIpl = (x.detected true k).deviceReset .trapConflict := by
  refine State.settle_of_conflict (State.logged_detected (State.logged_of_empty hlog) true k) ?_
  have hosc : (x.detected true k).trapRequest .oscillator = s.trapRequest .oscillator := by
    cases k <;> simpa [State.trapRequest, State.detected] using hflags
  have hhigher : 14 ≤ s.cpuIpl ∨ s.trapRequest .oscillator = true := by
    by_contra hno
    rw [not_or, Nat.not_le, Bool.not_eq_true] at hno
    exact hnot hno
  simpa [State.hardConflict, hosc, State.detected_log hlog] using hhigher

/-! ### Push and pop -/

/-- A push onto data memory in the terms of `State.detected` (R60, R133). -/
theorem State.push16_ram_detected {s : State} (v : Word) (h : s.ramWordAt s.w15) :
    ∃ m, s.push16 v = .next (({ s with w15 := s.w15 + 2, ram := m } : State).detected false (s.pastLimit s.w15))
      ∧ State.ramWord { s with ram := m } s.w15 = v
      ∧ ∀ b, offWord s.w15 b → State.ramByte { s with ram := m } b = s.ramByte b := by
  obtain ⟨t, ht, he, hword, hoff⟩ := State.push16_of_ram v h
  have hseed : t.ramSeed = s.ramSeed := by rw [he]
  have hbyte (b : Word) : State.ramByte { s with ram := t.ram } b = t.ramByte b := by
    simp only [State.ramByte, hseed]
  refine ⟨t.ram, ht.trans (congrArg _ (he.trans ?_)), ?_, fun b hb => (hbyte b).trans (hoff b hb)⟩
  · simp [State.detected, State.pastLimit]
  · rw [← hword, State.ramWord, State.ramWord, hbyte, hbyte]

/-- W15 down by 2 and the overflow check on it, and where the word there cannot be read the address error and a draw (R60, R133). -/
theorem State.pop16_detected (s : State) : s.pop16 =
    if s.badAccess .word (s.w15 - 2) then (s.writeW 15 (s.w15 - 2)).draw.detected true (s.pastLimit (s.w15 - 2))
    else (s.writeW 15 (s.w15 - 2)).detected false (s.pastLimit (s.w15 - 2)) := by
  simp only [State.pop16, State.stackCheck_detected, State.raiseHard_addr, State.detected_detected, Bool.or_false, Bool.or_true,
    State.detected_draw]
  rfl

/-- A write of a register other than W15 leaves W15. -/
theorem State.w15_writeW {s : State} {i : WReg} {v : Word} (h : i.val ≠ 15) : (s.writeW i v).w15 = s.w15 := by
  have hread := State.readW_writeW s i 15 v
  rwa [if_neg fun e => h (congrArg Fin.val e).symm] at hread

/-- The state after a register is written, as an update of the registers. -/
theorem State.exists_writeW (s : State) (i : WReg) (v : Word) :
    ∃ w alt1 alt2 w15, s.writeW i v = { s with w := w, alt1 := alt1, alt2 := alt2, w15 := w15 } :=
  ⟨_, _, _, _, s.writeW_frame i v⟩

theorem exec_push {s t : State} {r : WReg} (h : s.fresh.push16 (s.readW r) = .next t) :
    exec (.w15Access (.push r)) s = .next (s.fresh.finishStack t) :=
  congrArg (fun x => andThen x fun t => .next (s.fresh.finishStack t)) h

theorem exec_pop (s : State) (r : WReg) : exec (.w15Access (.pop r)) s =
    .next (s.fresh.finishStack (s.fresh.pop16.writeW r s.fresh.popValue)) := rfl

end Sys2Proof.Machine

namespace Sys2Proof.Proofs

open Sys2Proof Sys2Proof.Machine

/-- Settles O11: the address error is all that the instruction's place detects, and whether it conflicts is decided by the state
before the step. -/
theorem unimplementedPcRaisesAddressError : Obligations.UnimplementedPcRaisesAddressError := by
  intro s hm hw hp
  have hstep := step_of_unimplemented hm hw hp
  refine ⟨fun hfree => ⟨s.readied.detected true false, ?_, ?_, State.addrLogged_detected rfl, rfl⟩, fun hnot => ⟨_, hstep, ?_⟩⟩
  · rw [hstep, State.settle_detected (s := s) (x := s.readied) rfl rfl fun _ => hfree]
  · simp [State.detected, State.readied]
  · rw [State.settle_addr_conflict (s := s) (x := s.readied) rfl rfl hnot]
    exact State.conflictReset_deviceReset ⟨rfl, rfl, rfl⟩ rfl rfl

/-- The push's half of O42. -/
theorem pushResult {s : State} {r : WReg} (h : s.ramWordAt s.w15) :
    ∃ t, exec (.w15Access (.push r)) s = .next t ∧ t.w15 = s.w15 + 2 ∧ t.ramWord s.w15 = s.readW r ∧
      (∀ b, offWord s.w15 b → t.ramByte b = s.ramByte b) ∧
      stackFlag s.intcon1 t.intcon1 (s.overLimit s.w15 ∨ t.w15 < 0x1000) ∧
      t.quiet ∧ t = { s with pc := s.pc + 2, w15 := t.w15, ram := t.ram, intcon1 := t.intcon1, log := t.log } := by
  obtain ⟨m, hpush, hword, hoff⟩ := State.push16_ram_detected (s := s.fresh) (s.readW r) h
  have hend := State.finishStack_detected (s := s) (x := { s.fresh with w15 := s.w15 + 2, ram := m }) (a := false)
    (k := s.pastLimit s.w15) rfl rfl nofun
  refine ⟨_, (exec_push hpush).trans (congrArg _ hend), rfl, hword, hoff, stackFlag_detected rfl ?_,
    State.quiet_detected rfl, rfl⟩
  rw [Bool.or_eq_true, State.pastLimit_iff, decide_eq_true_eq]
  rfl

/-- The pop's half of O42. -/
theorem popResult {s : State} {r : WReg} (h : s.badAccess .word (s.w15 - 2) = false) :
    ∃ t, exec (.w15Access (.pop r)) s = .next t ∧ t.readW r = s.loadWord (s.w15 - 2) ∧
      (r.val ≠ 15 → t.w15 = s.w15 - 2) ∧ s.onlyRegs t [r, 15] ∧
      stackFlag s.intcon1 t.intcon1 (s.overLimit (s.w15 - 2) ∨ t.w15 < 0x1000) ∧
      t.quiet ∧ t = { s with
        pc := s.pc + 2, w := t.w, alt1 := t.alt1, alt2 := t.alt2, w15 := t.w15, intcon1 := t.intcon1, log := t.log } := by
  have hpop : s.fresh.pop16 = (s.fresh.writeW 15 (s.w15 - 2)).detected false (s.pastLimit (s.w15 - 2)) :=
    (State.pop16_detected s.fresh).trans (if_neg (Bool.eq_false_iff.mp h))
  have hval : s.fresh.popValue = s.loadWord (s.w15 - 2) := (State.pop16_good (s := s.fresh) h).2
  have hrun := exec_pop s r
  rw [hpop, hval, State.detected_writeW, State.finishStack_detected (s := s) (a := false) (by simp) (by simp) nofun] at hrun
  refine ⟨_, hrun, (State.readW_writeW _ r r _).trans (if_pos rfl), State.w15_writeW, ?_, stackFlag_detected (by simp) ?_,
    State.quiet_detected (by simp), ?_⟩
  · have hsp : s.onlyRegs (s.fresh.writeW 15 (s.w15 - 2)) [r, 15] :=
      State.onlyRegs_writeW (State.onlyRegs_refl s _) rfl rfl (by simp)
    exact State.onlyRegs_congr (State.onlyRegs_writeW hsp (by simp) (by simp) (by simp)) rfl rfl rfl rfl rfl rfl
  · rw [Bool.or_eq_true, State.pastLimit_iff, decide_eq_true_eq]
    rfl
  · obtain ⟨w, alt1, alt2, w15, hregs⟩ := State.exists_writeW (s.fresh.writeW 15 (s.w15 - 2)) r (s.loadWord (s.w15 - 2))
    rw [hregs]
    rfl

/-- Settles O42: a push ends with the checks on the old and the new W15, a pop with both on the W15 it leaves. -/
theorem pushAndPopResult : Obligations.PushAndPopResult := fun _ _ => ⟨pushResult, popResult⟩

end Sys2Proof.Proofs
end

section
/-! SUPPORT. Accesses through a W register and through W15 that raise the address error: which instruction is one, what its checks
detect, and the state it goes on with (R53 to R57, R93, R94, R99). -/

namespace Sys2Proof.Machine

open Sys2Proof

/-! ### Memory through a W register -/

/-- An operand in memory through W register `w`, paged or not. -/
def Operand.through (op : Operand) (w : WReg) : Prop := op = .indirect w ∨ op = .paged w

/-- A double-word operand in memory through W register `w`, paged or not. -/
def DwOperand.through (op : DwOperand) (w : WReg) : Prop := op = .indirect w ∨ op = .paged w

theorem Operand.through_indirect (w : WReg) : Operand.through (.indirect w) w := .inl rfl

theorem Operand.through_paged (w : WReg) : Operand.through (.paged w) w := .inr rfl

theorem DwOperand.through_indirect (w : WReg) : DwOperand.through (.indirect w) w := .inl rfl

theorem DwOperand.through_paged (w : WReg) : DwOperand.through (.paged w) w := .inr rfl

@[simp] theorem bitThrough_bitManip {size : Size} {bit : Fin 16} {op : Operand} {w : WReg} :
    bitThrough (.bitManip size bit op) w ↔ Operand.through op w := by
  simp [bitThrough, Operand.through, exists_or]

@[simp] theorem bitThrough_btsc {bit : Fin 16} {op : Operand} {w : WReg} : bitThrough (.btsc bit op) w ↔ Operand.through op w := by
  simp [bitThrough, Operand.through, exists_or]

@[simp] theorem bitThrough_btss {bit : Fin 16} {op : Operand} {w : WReg} : bitThrough (.btss bit op) w ↔ Operand.through op w := by
  simp [bitThrough, Operand.through, exists_or]

@[simp] theorem not_bitThrough_movD {src dst : DwOperand} {w : WReg} : ¬bitThrough (.movD src dst) w := by simp [bitThrough]

@[simp] theorem not_bitThrough_w15Access {op : StackOp} {w : WReg} : ¬bitThrough (.w15Access op) w := by simp [bitThrough]

@[simp] theorem not_bitThrough_macClass {acc : AccSel} {x y : WReg} {dsts : List WReg} {w : WReg} :
    ¬bitThrough (.macClass acc x y dsts) w := by
  simp [bitThrough]

/-- An operand is through one register only. -/
theorem Operand.through_unique {op : Operand} {w w' : WReg} (h : Operand.through op w) (h' : Operand.through op w') : w' = w := by
  rcases h with rfl | rfl <;> rcases h' with h' | h' <;> cases h' <;> rfl

/-- An instruction goes through one register only. -/
theorem bitThrough_unique {i : Instr} {w w' : WReg} (h : bitThrough i w) (h' : bitThrough i w') : w' = w := by
  cases i with
  | bitManip size bit op => exact Operand.through_unique (bitThrough_bitManip.mp h) (bitThrough_bitManip.mp h')
  | btsc bit op => exact Operand.through_unique (bitThrough_btsc.mp h) (bitThrough_btsc.mp h')
  | btss bit op => exact Operand.through_unique (bitThrough_btss.mp h) (bitThrough_btss.mp h')
  | _ => simp [bitThrough] at h

section
variable {s : State} {op : Operand} {dw : DwOperand} {w : WReg}

theorem State.oddIndirect_through (h : Operand.through op w) : s.oddIndirect op = (s.readW w).getLsbD 0 := by
  rcases h with rfl | rfl <;> rfl

theorem Operand.usesW15_through (h : Operand.through op w) : Operand.usesW15 op = (w.val == 15) := by rcases h with rfl | rfl <;> rfl

theorem DwOperand.usesW15_through (h : DwOperand.through dw w) : DwOperand.usesW15 dw = (w.val == 15) := by rcases h with rfl | rfl <;> rfl

/-! ### The overflow checks of a pointer -/

theorem State.readW_of_eq_fifteen (h : w.val = 15) : s.readW w = s.w15 := by simp [State.readW, h]

/-- The overflow checks of an access of a word or of two words through register `w` fail (R99, R133). -/
def State.pointerStk (w : WReg) (two : Bool) (s : State) : Bool :=
  w.val == 15 && (s.pastLimit s.w15 || two && (s.pastLimit (s.w15 + 2) || decide (0xFFFE ≤ s.w15)))

theorem State.pointerStk_iff {two : Bool} : s.pointerStk w two = true ↔ s.pointerFails w two := by
  simp [State.pointerStk, State.pointerFails, State.pastLimit_iff]

theorem State.pointerCheck_word (s : State) (w : WReg) :
    s.pointerCheck w (s.readW w) false = s.detected false (s.pointerStk w false) := by
  rw [State.pointerCheck_detected, State.pointerStk]
  by_cases h : w.val = 15
  · rw [State.readW_of_eq_fifteen h, Bool.false_and]
  · rw [beq_false_of_ne h, Bool.false_and, Bool.false_and]

theorem State.operandCheck_through (h : Operand.through op w) : s.operandCheck op = s.detected false (s.pointerStk w false) := by
  rw [← State.pointerCheck_word]
  rcases h with rfl | rfl <;> rfl

/-- The address of the second word wraps exactly for W15 at 0xFFFE and 0xFFFF (R99). -/
theorem second_word_wraps (a : Word) : decide (0xFFFF < a.toNat + 2) = decide (0xFFFE ≤ a) :=
  decide_eq_decide.mpr (by bv_omega)

theorem State.dwCheck_through (h : DwOperand.through dw w) : s.dwCheck dw = s.detected false (s.pointerStk w true) := by
  have hchecks : s.dwCheck dw = (s.pointerCheck w (s.readW w) false).pointerCheck w (s.readW w + 2)
      (decide (0xFFFF < (s.readW w).toNat + 2)) := by
    rcases h with rfl | rfl <;> rfl
  rw [hchecks, State.pointerCheck_word, State.pointerCheck_detected, State.detected_detected, Bool.or_self,
    State.detected_pastLimit, State.pointerStk, State.pointerStk, second_word_wraps]
  by_cases h15 : w.val = 15
  · simp [State.readW_of_eq_fifteen h15, Bool.and_or_distrib_left]
  · rw [beq_false_of_ne h15, Bool.false_and, Bool.false_and, Bool.false_and, Bool.or_self]

end

/-! ### The address error of each form -/

section
variable {s : State} {op : Operand} {w : WReg}

/-- A bit manipulation through an odd address detects its checks and nothing else happens (R54, R93). -/
theorem exec_bitManip_odd {size : Size} {bit : Fin 16} (h : Operand.through op w) (hodd : (s.readW w).getLsbD 0 = true) :
    exec (.bitManip size bit op) s =
      .next (s.fresh.finish (w.val == 15) (s.fresh.detected true (s.pointerStk w false))) := by
  have hodd' : s.fresh.oddIndirect op = true := (State.oddIndirect_through h).trans hodd
  change execBitManip size bit op s = _
  simp only [execBitManip, hodd', if_true, State.operandCheck_through h, Operand.usesW15_through h, State.raiseHard_addr,
    State.detected_detected, Bool.false_or, Bool.or_false]
  rfl

/-- So does a bit test (R93, R96). -/
theorem State.testSkip_odd {want : Bool} {bit : Fin 16} (h : Operand.through op w) (hodd : (s.readW w).getLsbD 0 = true) :
    s.testSkip want bit op = s.fresh.finish (w.val == 15) (s.fresh.detected true (s.pointerStk w false)) := by
  have hodd' : s.fresh.oddIndirect op = true := (State.oddIndirect_through h).trans hodd
  simp only [State.testSkip, hodd', if_true, State.operandCheck_through h, Operand.usesW15_through h, State.raiseHard_addr,
    State.detected_detected, Bool.false_or, Bool.or_false]
  rfl

theorem exec_btsc (bit : Fin 16) (op : Operand) (s : State) : exec (.btsc bit op) s = .next (s.testSkip false bit op) := rfl

theorem exec_btss (bit : Fin 16) (op : Operand) (s : State) : exec (.btss bit op) s = .next (s.testSkip true bit op) := rfl

theorem exec_bitTest_odd {i : Instr} {bit : Fin 16} (hi : i = .btsc bit op ∨ i = .btss bit op) (h : Operand.through op w)
    (hodd : (s.readW w).getLsbD 0 = true) :
    exec i s = .next (s.fresh.finish (w.val == 15) (s.fresh.detected true (s.pointerStk w false))) := by
  rcases hi with rfl | rfl
  · rw [exec_btsc, State.testSkip_odd h hodd]
  · rw [exec_btss, State.testSkip_odd h hodd]

/-- A bit manipulation through an even address of an operand that cannot be written (R55, R57). -/
theorem exec_bitManip_bad {size : Size} {bit : Fin 16} (h : Operand.through op w) (heven : (s.readW w).getLsbD 0 = false)
    (hbad : (op = .indirect w ∧ s.badAccess size (s.readW w) = true) ∨ (op = .paged w ∧ (s.dsrpag = 0 ∨ s.dswpag = 0))) :
    exec (.bitManip size bit op) s =
      .next (s.fresh.finish (w.val == 15) (s.fresh.execFlags.detected true (s.pointerStk w false))) := by
  have heven' : s.fresh.oddIndirect op = false := (State.oddIndirect_through h).trans heven
  change execBitManip size bit op s = _
  simp only [execBitManip, heven', Bool.false_eq_true, if_false, State.operandCheck_through h, State.raiseHard_addr,
    State.detected_detected, Bool.false_or, Bool.or_false, State.detected_execFlags]
  rcases hbad with ⟨rfl, hbad⟩ | ⟨rfl, hpage⟩
  · exact if_pos hbad
  · exact if_pos hpage

/-- A MOV.D to memory that one of its two words raises the address error for (R53, R55, R57). -/
theorem exec_movD_store_bad {p : Fin 8} {dst : DwOperand} (h : DwOperand.through dst w) (hbad : s.dwBad dst s.dswpag = true) :
    exec (.movD (.pair p) dst) s = .next (s.fresh.finish (w.val == 15)
      (s.fresh.draw.draw.execFlags.detected true (s.pointerStk w true))) := by
  have hmem : DwOperand.inMemory dst = true := by rcases h with rfl | rfl <;> rfl
  have hbad' : (s.fresh.dwBad (.pair p) s.fresh.dsrpag || s.fresh.dwBad dst s.fresh.dswpag) = true := by
    rw [Bool.or_eq_true]
    refine .inr (Eq.trans ?_ hbad)
    rcases h with rfl | rfl <;> rfl
  change execMovD (.pair p) dst s = _
  simp only [execMovD, hbad', hmem, Bool.and_self, if_true, State.dwCheck_through (s := s.fresh.dwCheck (.pair p)) h,
    DwOperand.usesW15_through h, State.raiseHard_addr, State.detected_detected, Bool.false_or, Bool.or_false,
    State.detected_draw, State.detected_execFlags]
  rfl

end

section
variable {s : State}

/-- A push that raises the address error writes nothing and W15 goes up all the same (R53, R59). -/
theorem State.push16_bad {v : Word} (h : s.badAccess .word s.w15 = true) :
    s.push16 v = .next ((s.writeW 15 (s.w15 + 2)).detected true (s.pastLimit s.w15)) := by
  simp only [State.push16, State.pushStore, State.stackCheck_detected, State.detected_badAccess, State.detected_w15, h, if_true,
    State.raiseHard_addr, State.detected_detected, andThen_next, Bool.or_false, Bool.false_or]
  rfl

/-- Two words pushed of which one raises the address error (R59). -/
theorem State.pushPair_bad {lo hi : Word} (h : s.badAccess .word s.w15 = true ∨ s.badAccess .word (s.w15 + 2) = true) :
    s.pushPair lo hi =
      .next ((s.writeW 15 (s.w15 + 4)).detected true (s.pastLimit s.w15 || s.pastLimit (s.w15 + 2))) := by
  rw [State.pushPair, if_pos (by simpa using h)]
  simp only [State.stackCheck_detected, State.raiseHard_addr, State.detected_detected, State.detected_pastLimit, Bool.or_false,
    Bool.false_or]
  rfl

/-- A store through W15 that raises the address error (R53, R55). -/
theorem exec_store_bad {size : Size} {disp : Word} {r : WReg} (h : s.badAccess size (s.w15 + disp) = true) :
    exec (.w15Access (.store size disp r)) s = .next (s.fresh.finishStack
      (s.fresh.detected true (s.pastLimit (s.w15 + disp) || s.stackCarry disp))) := by
  change execW15Access (.store size disp r) s = _
  have hbad : s.fresh.badAccess size (s.fresh.stackEa disp) = true := h
  simp only [execW15Access, State.stackStore, State.stackCheck_detected, State.detected_badAccess, hbad, if_true,
    State.raiseHard_addr, State.detected_detected, andThen_next, Bool.or_false, Bool.false_or]
  rfl

end

end Sys2Proof.Machine
end

section
/-! SUPPORT. The accesses that raise the address error and write no data (O45): what each form leaves of W15, SR and STKERR. -/

namespace Sys2Proof.Machine

open Sys2Proof

/-! ### Stores and bit tests -/

/-- The state with which an instruction that writes no data goes on, its address and stack errors apart. -/
def State.goneOn (w15 sr : Word) (free : Nat) (s : State) : State :=
  { s with pc := s.pc + 2, w15 := w15, sr := sr, free := free, log := {} }

/-- What an access of form `i` that raises the address error leaves in W15 and SR, and whether a stack check fails (`stk`): SR but for
its IPL where the access has an effect on it that is `ExecInstr`, W15 but for a push. -/
structure State.Inhibited (s : State) (i : Instr) (w15 sr : Word) (stk : Bool) : Prop where
  ipl : sr &&& 0x00E0 = s.sr &&& 0x00E0
  bits : ∀ w, bitThrough i w → w15 = s.w15 ∧ ((s.readW w).getLsbD 0 = true → sr = s.sr) ∧
    (stk = true ↔ s.pointerFails w false ∨ (w.val = 15 ∧ s.w15 < 0x1000)) := by simp
  movD : ∀ p w, i = .movD (.pair p) (.indirect w) ∨ i = .movD (.pair p) (.paged w) →
    w15 = s.w15 ∧ (stk = true ↔ s.pointerFails w true ∨ (w.val = 15 ∧ s.w15 < 0x1000)) := by simp
  store : ∀ size disp r, i = .w15Access (.store size disp r) → w15 = s.w15 ∧ sr = s.sr ∧
    (stk = true ↔ s.overLimit (s.w15 + disp) ∨ 0xFFFF < (s.w15.toNat : Int) + disp.toInt ∨ s.w15 < 0x1000) := by simp
  push : ∀ r, i = .w15Access (.push r) → w15 = s.w15 + 2 ∧ sr = s.sr ∧
    (stk = true ↔ s.overLimit s.w15 ∨ w15 < 0x1000) := by simp

/-- An instruction goes on with the address error detected and nothing written. -/
def State.goesOnInhibited (s : State) (i : Instr) : Prop :=
  ∃ w15 sr free stk, exec i s = .next ((s.goneOn w15 sr free).detected true stk) ∧ s.Inhibited i w15 sr stk

section
variable {s : State} {i : Instr}

/-- An access of `s` through register `w` that ends with W15 as it was: the underflow check is on W15 where it was the pointer. -/
theorem State.finish_through {w : WReg} {stk : Bool} (hfree : s.addrErrorFree) (sr : Word) (free : Nat) :
    s.fresh.finish (w.val == 15) (({ s.fresh with sr := sr, free := free } : State).detected true stk) =
      (s.goneOn s.w15 sr free).detected true (stk || (w.val == 15 && decide (s.w15 < 0x1000))) := by
  have hend := State.finish_detected (s := s) (x := { s.fresh with sr := sr, free := free }) (used := w.val == 15) (a := true)
    (k := stk) rfl rfl fun _ => hfree
  rwa [State.fresh_w15, bne_self_eq_false, Bool.or_false] at hend

theorem State.pointerStk_or_underflow {w : WReg} {two : Bool} :
    (s.pointerStk w two || (w.val == 15 && decide (s.w15 < 0x1000))) = true ↔
      s.pointerFails w two ∨ (w.val = 15 ∧ s.w15 < 0x1000) := by
  rw [Bool.or_eq_true, State.pointerStk_iff, Bool.and_eq_true, beq_iff_eq, decide_eq_true_eq]

/-- A bit manipulation or a bit test through `w` goes on inhibited, with SR as it was or, where the address is even, with its bits
outside IPL free. -/
theorem State.goesOnInhibited_bits {w : WReg} {sr : Word} {free : Nat} (hfree : s.addrErrorFree) (hw : bitThrough i w)
    (hipl : sr &&& 0x00E0 = s.sr &&& 0x00E0) (hsr : (s.readW w).getLsbD 0 = true → sr = s.sr)
    (hrun : exec i s = .next (s.fresh.finish (w.val == 15)
      (({ s.fresh with sr := sr, free := free } : State).detected true (s.pointerStk w false)))) :
    s.goesOnInhibited i := by
  refine ⟨_, _, _, _, hrun.trans (congrArg _ (State.finish_through hfree sr free)), {
    ipl := hipl
    bits := fun w' hw' => ?_
    movD := fun p w' h => ?_
    store := fun size disp r h => absurd (h ▸ hw) not_bitThrough_w15Access
    push := fun r h => absurd (h ▸ hw) not_bitThrough_w15Access }⟩
  · obtain rfl := bitThrough_unique hw hw'
    exact ⟨rfl, hsr, State.pointerStk_or_underflow⟩
  · rcases h with h | h <;> exact absurd (h ▸ hw) not_bitThrough_movD

/-- Every form that would write and cannot goes on with nothing written (R59). -/
theorem State.goesOnInhibited_of_writesBadly (hfree : s.addrErrorFree) (h : s.writesBadly i) : s.goesOnInhibited i := by
  have hmanip {size : Size} {bit : Fin 16} {op : Operand} {w : WReg} (hop : Operand.through op w)
      (hbad : (s.readW w).getLsbD 0 = true ∨ (op = .indirect w ∧ s.badAccess size (s.readW w) = true) ∨
        (op = .paged w ∧ (s.dsrpag = 0 ∨ s.dswpag = 0))) : s.goesOnInhibited (.bitManip size bit op) := by
    have hw : bitThrough (.bitManip size bit op) w := bitThrough_bitManip.mpr hop
    cases hodd : (s.readW w).getLsbD 0
    · have hbad' := hbad.resolve_left (ne_of_eq_of_ne hodd Bool.false_ne_true)
      exact State.goesOnInhibited_bits hfree hw (execFlags_ipl _ _) (fun h => absurd (hodd.symm.trans h) Bool.false_ne_true)
        (exec_bitManip_bad hop hodd hbad')
    · exact State.goesOnInhibited_bits hfree hw rfl (fun _ => rfl) (exec_bitManip_odd hop hodd)
  have htest {bit : Fin 16} {op : Operand} {w : WReg} (hop : Operand.through op w) (hi : i = .btsc bit op ∨ i = .btss bit op)
      (hodd : (s.readW w).getLsbD 0 = true) : s.goesOnInhibited i :=
    have hw : bitThrough i w := hi.elim (fun h => h ▸ bitThrough_btsc.mpr hop) fun h => h ▸ bitThrough_btss.mpr hop
    State.goesOnInhibited_bits hfree hw rfl (fun _ => rfl) (exec_bitTest_odd hi hop hodd)
  have hmovD {p : Fin 8} {dst : DwOperand} {w : WReg} (hdst : DwOperand.through dst w)
      (hbad : s.dwBad dst s.dswpag = true) : s.goesOnInhibited (.movD (.pair p) dst) := by
    refine ⟨_, _, _, _, (exec_movD_store_bad hdst hbad).trans (congrArg _ (State.finish_through hfree _ _)), {
      ipl := execFlags_ipl _ _
      movD := fun p' w' hw' => ?_ }⟩
    obtain rfl : w' = w := by
      rcases hdst with rfl | rfl <;> rcases hw' with hw' | hw' <;> cases hw' <;> rfl
    exact ⟨rfl, State.pointerStk_or_underflow⟩
  rcases h with ⟨size, bit, w, rfl, hbad⟩ | ⟨bit, w, hi, hodd⟩ | ⟨size, bit, w, rfl, hbad⟩ | ⟨p, w, rfl, hbad⟩ |
    ⟨p, w, rfl, hbad⟩ | ⟨size, disp, r, rfl, hbad⟩ | ⟨r, rfl, hbad⟩
  · exact hmanip (Operand.through_indirect w) (hbad.imp_right fun hb => .inl ⟨rfl, hb⟩)
  · rcases hi with hi | hi | hi | hi
    · exact htest (Operand.through_indirect w) (.inl hi) hodd
    · exact htest (Operand.through_indirect w) (.inr hi) hodd
    · exact htest (Operand.through_paged w) (.inl hi) hodd
    · exact htest (Operand.through_paged w) (.inr hi) hodd
  · exact hmanip (Operand.through_paged w) (hbad.imp_right fun hb => .inr ⟨rfl, hb⟩)
  · exact hmovD (DwOperand.through_indirect w) (Bool.or_eq_true_iff.mpr hbad)
  · exact hmovD (DwOperand.through_paged w) (by simpa [State.dwBad, or_comm] using hbad)
  · have hend := State.finishStack_detected (s := s) (x := s.fresh) (a := true)
      (k := s.pastLimit (s.w15 + disp) || s.stackCarry disp) rfl rfl fun _ => hfree
    refine ⟨s.w15, s.sr, s.free, _, (exec_store_bad hbad).trans (congrArg _ hend), { ipl := rfl, store := ?_ }⟩
    rintro _ _ _ ⟨⟩
    refine ⟨rfl, rfl, ?_⟩
    rw [Bool.or_eq_true, Bool.or_eq_true, State.pastLimit_iff, or_assoc, decide_eq_true_eq, State.stackCarry,
      decide_eq_true_eq]
    rfl
  · have hend := State.finishStack_detected (s := s) (x := s.fresh.writeW 15 (s.w15 + 2)) (a := true)
      (k := s.pastLimit s.w15) rfl rfl fun _ => hfree
    refine ⟨s.w15 + 2, s.sr, s.free, _, (exec_push (State.push16_bad hbad)).trans (congrArg _ hend), { ipl := rfl, push := ?_ }⟩
    rintro _ ⟨⟩
    refine ⟨rfl, rfl, ?_⟩
    rw [Bool.or_eq_true, State.pastLimit_iff, decide_eq_true_eq]
    rfl

end

end Sys2Proof.Machine
end

section
/-! SUPPORT. Calls, links and unlinks on a stack that cannot be accessed, and the statement on the accesses that write no data (O45). -/

namespace Sys2Proof.Machine

open Sys2Proof

/-! ### Calls, links and unlinks -/

/-- State `x` differs from `s` as a call, a link or an unlink that writes no data may: in the PC, in W14 and W15, in SFA, in the draw
count, and in an empty log. -/
structure State.FrameOnly (s x : State) : Prop where
  regs : s.onlyRegs x [14, 15]
  corcon : x.corcon &&& 0xFFFB = s.corcon &&& 0xFFFB
  shape : ∃ pc w alt1 alt2 w15 corcon free, x = { s with
    pc := pc, w := w, alt1 := alt1, alt2 := alt2, w15 := w15, corcon := corcon, free := free, log := {} }

namespace State.FrameOnly

variable {s x : State}

theorem fresh (s : State) : s.FrameOnly s.fresh :=
  ⟨State.onlyRegs_refl s _, rfl, _, _, _, _, _, _, _, rfl⟩

theorem draw (h : s.FrameOnly x) : s.FrameOnly x.draw := by
  obtain ⟨hregs, hcorcon, pc, w, alt1, alt2, w15, corcon, free, rfl⟩ := h
  exact ⟨hregs, hcorcon, _, _, _, _, _, _, _, rfl⟩

theorem setPc {a : PAddr} (h : s.FrameOnly x) : s.FrameOnly (x.setPc a) := by
  obtain ⟨hregs, hcorcon, pc, w, alt1, alt2, w15, corcon, free, rfl⟩ := h
  exact ⟨hregs, hcorcon, _, _, _, _, _, _, _, rfl⟩

theorem setSfa {b : Bool} (h : s.FrameOnly x) : s.FrameOnly (x.setSfa b) := by
  obtain ⟨hregs, hcorcon, pc, w, alt1, alt2, w15, corcon, free, rfl⟩ := h
  have hother : setBit corcon 2 b &&& 0xFFFB = corcon &&& 0xFFFB := by
    apply BitVec.eq_of_getLsbD_eq
    intro i hi
    simp only [BitVec.getLsbD_and, getLsbD_setBit]
    by_cases h2 : i = 2
    · subst h2; simp
    · simp [h2]
  exact ⟨hregs, hother.trans hcorcon, _, _, _, _, _, _, _, rfl⟩

theorem writeW {i : WReg} {v : Word} (h : s.FrameOnly x) (hi : i ∈ ([14, 15] : List WReg)) : s.FrameOnly (x.writeW i v) := by
  obtain ⟨hregs, hcorcon, pc, w, alt1, alt2, w15, corcon, free, rfl⟩ := h
  refine ⟨State.onlyRegs_writeW hregs rfl rfl hi, ?_, ?_⟩
  · rwa [State.writeW_corcon]
  · obtain ⟨w', alt1', alt2', w15', hw⟩ := State.exists_writeW { s with
      pc := pc, w := w, alt1 := alt1, alt2 := alt2, w15 := w15, corcon := corcon, free := free, log := {} } i v
    exact ⟨_, _, _, _, _, _, _, hw⟩

theorem log (h : s.FrameOnly x) : x.log = {} := by
  obtain ⟨_, _, pc, w, alt1, alt2, w15, corcon, free, rfl⟩ := h
  rfl

theorem flags (h : s.FrameOnly x) : x.intcon1 = s.intcon1 := by
  obtain ⟨_, _, pc, w, alt1, alt2, w15, corcon, free, rfl⟩ := h
  rfl

end State.FrameOnly

/-- What a call, a link or an unlink that raises the address error leaves: `x` before its errors are flagged, and whether a stack
check fails (`stk`). -/
structure State.FrameInhibited (s : State) (i : Instr) (x : State) (stk : Bool) : Prop where
  only : s.FrameOnly x
  call : ∀ target, i = .w15Access (.call target) → x.pc = target.zeroExtend 24 ∧ x.w15 = s.w15 + 4 ∧ x.readW 14 = s.readW 14 ∧
    (stk = true ↔ s.overLimit s.w15 ∨ s.overLimit (s.w15 + 2) ∨ x.w15 < 0x1000) := by simp
  link : ∀ lit14, i = .w15Access (.link lit14) → x.pc = s.pc + 2 ∧ x.readW 14 = s.w15 + 2 ∧
    x.w15 = s.w15 + 2 + lit14.zeroExtend 16 ∧ (stk = true ↔ s.overLimit s.w15 ∨ x.w15 < 0x1000) := by simp
  unlink : i = .w15Access .unlink → x.pc = s.pc + 2 ∧ x.w15 = s.readW 14 - 2 ∧
    (stk = true ↔ s.overLimit (s.readW 14 - 2) ∨ x.w15 < 0x1000) := by simp

section
variable {s : State} {i : Instr}

/-- A call goes to its target all the same (R99). -/
theorem State.frameInhibited_call {target : BitVec 23} (hfree : s.addrErrorFree)
    (hbad : s.badAccess .word s.w15 = true ∨ s.badAccess .word (s.w15 + 2) = true) :
    ∃ x stk, exec (.w15Access (.call target)) s = .next (x.detected true stk) ∧
      s.FrameInhibited (.w15Access (.call target)) x stk := by
  obtain ⟨lo, hi, b, hcall⟩ : ∃ lo hi b, exec (.w15Access (.call target)) s = andThen (s.fresh.draw.pushPair lo hi) fun t =>
      .next ((((t.setSfa b).setPc (target.zeroExtend 24)).underflowCheck).settle s.cpuIpl) := ⟨_, _, _, rfl⟩
  have honly : s.FrameOnly (((s.fresh.draw.writeW 15 (s.w15 + 4)).setSfa b).setPc (target.zeroExtend 24)) :=
    ((State.FrameOnly.fresh s).draw.writeW (by simp)).setSfa.setPc
  rw [State.pushPair_bad (s := s.fresh.draw) hbad, andThen_next, State.detected_setSfa, State.detected_setPc,
    State.underflowCheck_detected, State.detected_detected, Bool.or_false] at hcall
  refine ⟨_, _, hcall.trans (congrArg _ (State.settle_detected honly.log (congrArg (·.getLsbD 1) honly.flags) fun _ => hfree)),
    { only := honly, call := ?_ }⟩
  rintro _ ⟨⟩
  refine ⟨rfl, rfl, State.readW_writeW s.fresh.draw 15 14 _, ?_⟩
  rw [Bool.or_eq_true, Bool.or_eq_true, State.pastLimit_iff, State.pastLimit_iff, decide_eq_true_eq, or_assoc]
  rfl

/-- A link moves W14 and W15 all the same (R99). -/
theorem State.frameInhibited_link {lit14 : BitVec 14} (hfree : s.addrErrorFree) (hbad : s.badAccess .word s.w15 = true) :
    ∃ x stk, exec (.w15Access (.link lit14)) s = .next (x.detected true stk) ∧
      s.FrameInhibited (.w15Access (.link lit14)) x stk := by
  obtain ⟨b, hlink⟩ : ∃ b, exec (.w15Access (.link lit14)) s = andThen (s.fresh.draw.push16 (s.readW 14)) fun t =>
      .next (s.fresh.finishStack (((t.writeW 14 t.w15).writeW 15 (t.w15 + lit14.zeroExtend 16)).setSfa b)) := ⟨_, rfl⟩
  have honly : s.FrameOnly (((s.fresh.draw.writeW 15 (s.w15 + 2)).writeW 14 (s.w15 + 2)).writeW 15
      (s.w15 + 2 + lit14.zeroExtend 16) |>.setSfa b) :=
    ((((State.FrameOnly.fresh s).draw.writeW (by simp)).writeW (by simp)).writeW (by simp)).setSfa
  rw [State.push16_bad (s := s.fresh.draw) hbad, andThen_next, State.detected_w15, State.detected_writeW, State.detected_writeW,
    State.detected_setSfa] at hlink
  refine ⟨_, _, hlink.trans (congrArg _ (State.finishStack_detected honly.log honly.flags fun _ => hfree)),
    { only := honly.setPc, link := ?_ }⟩
  rintro _ ⟨⟩
  refine ⟨congrArg (· + 2) (State.writeW_pc 14 (s.w15 + 2) (s.fresh.draw.writeW 15 (s.w15 + 2))), ?_, rfl, ?_⟩
  · exact (State.readW_writeW _ 15 14 _).trans (State.readW_writeW _ 14 14 _)
  · rw [Bool.or_eq_true, State.pastLimit_iff, decide_eq_true_eq]
    rfl

/-- An unlink takes W15 from W14 all the same, and W14 is free (R99, R53). -/
theorem State.frameInhibited_unlink (hfree : s.addrErrorFree) (hbad : s.badAccess .word (s.readW 14 - 2) = true) :
    ∃ x stk, exec (.w15Access .unlink) s = .next (x.detected true stk) ∧ s.FrameInhibited (.w15Access .unlink) x stk := by
  obtain ⟨v, b, hunlink⟩ : ∃ v b, exec (.w15Access .unlink) s =
      .next (s.fresh.finishStack ((((s.fresh.writeW 15 (s.readW 14)).pop16.writeW 14 v).draw).setSfa b)) := ⟨_, _, rfl⟩
  have hpop : (s.fresh.writeW 15 (s.readW 14)).pop16 =
      (s.fresh.writeW 15 (s.readW 14 - 2)).draw.detected true (s.pastLimit (s.readW 14 - 2)) :=
    (State.pop16_detected _).trans (if_pos hbad)
  have honly : s.FrameOnly ((((s.fresh.writeW 15 (s.readW 14 - 2)).draw.writeW 14 v).draw).setSfa b) :=
    (((State.FrameOnly.fresh s).writeW (by simp)).draw.writeW (by simp)).draw.setSfa
  rw [hpop, State.detected_writeW, State.detected_draw, State.detected_setSfa] at hunlink
  have hw15 : (((s.fresh.writeW 15 (s.readW 14 - 2)).draw.writeW 14 v)).w15 = s.readW 14 - 2 := State.w15_writeW (by decide)
  refine ⟨_, _, hunlink.trans (congrArg _ (State.finishStack_detected honly.log honly.flags fun _ => hfree)),
    { only := honly.setPc, unlink := fun _ => ⟨?_, hw15, ?_⟩ }⟩
  · exact congrArg (· + 2) (State.writeW_pc ..)
  · rw [Bool.or_eq_true, State.pastLimit_iff, decide_eq_true_eq]
    rfl

theorem State.frameInhibited_of_framesBadly (hfree : s.addrErrorFree) (h : s.framesBadly i) :
    ∃ x stk, exec i s = .next (x.detected true stk) ∧ s.FrameInhibited i x stk := by
  rcases h with ⟨target, rfl, hbad⟩ | ⟨lit14, rfl, hbad⟩ | ⟨rfl, hbad⟩
  · exact State.frameInhibited_call hfree hbad
  · exact State.frameInhibited_link hfree hbad
  · exact State.frameInhibited_unlink hfree hbad

end

end Sys2Proof.Machine

namespace Sys2Proof.Proofs

open Sys2Proof Sys2Proof.Machine

/-- Settles O45: whatever the form, the instruction goes on from a state with its data memory, in which the address error and the
failed stack checks are detected. -/
theorem addressErrorInhibitsWrites : Obligations.AddressErrorInhibitsWrites := by
  intro s i hfree
  refine ⟨fun hbad => ?_, fun hbad => ?_⟩
  · obtain ⟨w15, sr, free, stk, hrun, h⟩ := State.goesOnInhibited_of_writesBadly hfree hbad
    have hset {P : Prop} (hP : stk = true ↔ P) : s.addrErrorSet ((s.goneOn w15 sr free).detected true stk) P :=
      State.addrErrorSet_detected rfl hP
    refine ⟨_, hrun, State.addrLogged_detected rfl, rfl, rfl, fun j hj => ?_, h.ipl, fun w hw => ?_, fun p w hi => ?_,
      fun size disp r hi => ?_, fun r hi => ?_, rfl⟩
    · exact (State.readW_writeW s 15 j w15).trans (if_neg fun e => hj (congrArg Fin.val e))
    · obtain ⟨hw15, hsr, hP⟩ := h.bits w hw
      exact ⟨hw15, hsr, hset hP⟩
    · obtain ⟨hw15, hP⟩ := h.movD p w hi
      exact ⟨hw15, hset hP⟩
    · obtain ⟨hw15, hsr, hP⟩ := h.store size disp r hi
      exact ⟨hw15, hsr, hset hP⟩
    · obtain ⟨hw15, hsr, hP⟩ := h.push r hi
      exact ⟨hw15, hsr, hset hP⟩
  · obtain ⟨x, stk, hrun, h⟩ := State.frameInhibited_of_framesBadly hfree hbad
    have hset {P : Prop} (hP : stk = true ↔ P) : s.addrErrorSet (x.detected true stk) P :=
      State.addrErrorSet_detected h.only.flags hP
    refine ⟨_, hrun, State.addrLogged_detected h.only.log, ?_, h.only.corcon, h.only.regs, fun target hi => ?_,
      fun lit14 hi => ?_, fun hi => ?_, ?_⟩
    · obtain ⟨pc, w, alt1, alt2, w15, corcon, free, rfl⟩ := h.only.shape
      rfl
    · obtain ⟨hpc, hw15, hw14, hP⟩ := h.call target hi
      exact ⟨hpc, hw15, hw14, hset hP⟩
    · obtain ⟨hpc, hw14, hw15, hP⟩ := h.link lit14 hi
      exact ⟨hpc, hw14, hw15, hset hP⟩
    · obtain ⟨hpc, hw15, hP⟩ := h.unlink hi
      exact ⟨hpc, hw15, hset hP⟩
    · obtain ⟨pc, w, alt1, alt2, w15, corcon, free, rfl⟩ := h.only.shape
      rfl

end Sys2Proof.Proofs
end

section
/-! SUPPORT. The accumulator result of the MAC class and its overflow events (R92, R135, R136): which flags they set, and that an
address or stack error detected before is no matter to them. -/

namespace Sys2Proof.Machine

open Sys2Proof

/-! ### The bits of the detected conditions -/

theorem State.getLsbD_detected (s : State) (a k : Bool) (i : Nat) : (s.detected a k).intcon1.getLsbD i =
    (s.intcon1.getLsbD i || (a && decide (i = 3)) || (k && decide (i = 2))) := by
  have hbit (b : Bool) (j : Nat) (hj : j < 16) : (if b then 1#16 <<< j else 0).getLsbD i = (b && decide (i = j)) := by
    cases b
    · simp
    · simp only [if_true, getLsbD_one_shift, Bool.true_and]
      exact decide_eq_decide.mpr ⟨And.left, fun h => ⟨h, h ▸ hj⟩⟩
  rw [← hbit a 3 (by decide), ← hbit k 2 (by decide)]
  exact (BitVec.getLsbD_or ..).trans (congrArg (· || _) (BitVec.getLsbD_or ..))

theorem State.detected_orIntcon1 (s : State) (a k : Bool) (m : Word) :
    (s.detected a k).orIntcon1 m = (s.orIntcon1 m).detected a k := by
  have hor (v f g : Word) : v ||| f ||| g ||| m = v ||| m ||| f ||| g := by
    rw [BitVec.or_assoc, BitVec.or_comm g m, ← BitVec.or_assoc, BitVec.or_assoc v f m, BitVec.or_comm f m, ← BitVec.or_assoc]
  simp only [State.orIntcon1, State.detected, hor]

/-! ### The events of the MAC class -/

/-- The bit of INTCON1 that enables the overflow trap of an accumulator (R135). -/
def AccSel.enableBit : AccSel → Nat
  | .a => 10
  | .b => 9

/-- The bits of SR and INTCON1 that an overflow event of an accumulator sets, and of INTCON1 a catastrophic one (R135, R136). -/
def AccSel.overflowSr : AccSel → Word
  | .a => 0x8000
  | .b => 0x4000

def AccSel.overflowFlags : AccSel → Word
  | .a => 0x4010
  | .b => 0x2010

def AccSel.catastrophicFlags : AccSel → Word
  | .a => 0x1010
  | .b => 0x0810

theorem State.overflow_eq (acc : AccSel) (s : State) : s.overflow acc =
    if s.intcon1.getLsbD (AccSel.enableBit acc) then
      State.orIntcon1 { s with sr := s.sr ||| AccSel.overflowSr acc } (AccSel.overflowFlags acc)
    else { s with sr := s.sr ||| AccSel.overflowSr acc } := by
  cases acc <;> unfold State.overflow AccSel.enableBit <;> dsimp only <;> split <;> rfl

theorem State.catastrophic_eq (acc : AccSel) (s : State) : s.catastrophic acc =
    if s.intcon1.getLsbD 8 then s.orIntcon1 (AccSel.catastrophicFlags acc) else s := by
  cases acc <;> rfl

theorem State.detected_overflow (acc : AccSel) (s : State) (a k : Bool) :
    (s.detected a k).overflow acc = (s.overflow acc).detected a k := by
  have hen : (s.detected a k).intcon1.getLsbD (AccSel.enableBit acc) = s.intcon1.getLsbD (AccSel.enableBit acc) := by
    rw [State.getLsbD_detected]
    cases acc <;> simp [AccSel.enableBit]
  rw [State.overflow_eq, State.overflow_eq, hen]
  split
  · exact State.detected_orIntcon1 { s with sr := s.sr ||| AccSel.overflowSr acc } a k _
  · rfl

theorem State.detected_catastrophic (acc : AccSel) (s : State) (a k : Bool) :
    (s.detected a k).catastrophic acc = (s.catastrophic acc).detected a k := by
  have hen : (s.detected a k).intcon1.getLsbD 8 = s.intcon1.getLsbD 8 := (State.getLsbD_detected ..).trans (by simp)
  rw [State.catastrophic_eq, State.catastrophic_eq, hen]
  split
  · exact State.detected_orIntcon1 s a k _
  · rfl

/-- The events of one MAC: an overflow event `v`, then a catastrophic one `c`, each or none. -/
def State.macEvents (acc : AccSel) (v c : Bool) (s : State) : State :=
  let u := if v then s.overflow acc else s
  if c then u.catastrophic acc else u

theorem State.detected_macEvents (acc : AccSel) (v c : Bool) (s : State) (a k : Bool) :
    (s.detected a k).macEvents acc v c = (s.macEvents acc v c).detected a k := by
  cases v <;> cases c <;> simp [State.macEvents, State.detected_overflow, State.detected_catastrophic]

/-- The flags of INTCON1 that the events of one MAC set, the enables being those of `old` (R135, R136). -/
def macMask (acc : AccSel) (v c : Bool) (old : Word) : Word :=
  (if v && old.getLsbD (AccSel.enableBit acc) then AccSel.overflowFlags acc else 0) |||
    (if c && old.getLsbD 8 then AccSel.catastrophicFlags acc else 0)

theorem State.overflow_intcon1 (acc : AccSel) (s : State) : (s.overflow acc).intcon1 =
    s.intcon1 ||| (if s.intcon1.getLsbD (AccSel.enableBit acc) then AccSel.overflowFlags acc else 0) := by
  rw [State.overflow_eq]
  split
  · rfl
  · exact BitVec.or_zero.symm

theorem State.catastrophic_intcon1 (acc : AccSel) (s : State) : (s.catastrophic acc).intcon1 =
    s.intcon1 ||| (if s.intcon1.getLsbD 8 then AccSel.catastrophicFlags acc else 0) := by
  rw [State.catastrophic_eq]
  split
  · rfl
  · exact BitVec.or_zero.symm

/-- No overflow flag is the enable of the catastrophic trap. -/
theorem State.overflow_enable (s : State) (acc : AccSel) : (s.overflow acc).intcon1.getLsbD 8 = s.intcon1.getLsbD 8 := by
  rw [State.overflow_intcon1, BitVec.getLsbD_or]
  have hno : (AccSel.overflowFlags acc).getLsbD 8 = false := by cases acc <;> rfl
  split
  · rw [hno, Bool.or_false]
  · exact Bool.or_false _

theorem State.macEvents_intcon1 (acc : AccSel) (v c : Bool) (s : State) :
    (s.macEvents acc v c).intcon1 = s.intcon1 ||| macMask acc v c s.intcon1 := by
  cases c
  · cases v <;> simp [State.macEvents, macMask, State.overflow_intcon1]
  · have hsum (x : State) (hx : x.intcon1.getLsbD 8 = s.intcon1.getLsbD 8) : (x.catastrophic acc).intcon1 =
        x.intcon1 ||| (if s.intcon1.getLsbD 8 then AccSel.catastrophicFlags acc else 0) := by
      rw [State.catastrophic_intcon1, hx]
    cases v
    · simpa [State.macEvents, macMask] using hsum s rfl
    · simpa [State.macEvents, macMask, State.overflow_intcon1, BitVec.or_assoc] using hsum _ (s.overflow_enable acc)

/-- The events change INTCON1 and SR, and of SR the bit of the overflow (R135). -/
theorem State.macEvents_frame (acc : AccSel) (v c : Bool) (s : State) : s.macEvents acc v c = { s with
    sr := s.sr ||| (if v then AccSel.overflowSr acc else 0), intcon1 := (s.macEvents acc v c).intcon1 } := by
  have hover (x : State) : x.overflow acc = { x with
      sr := x.sr ||| AccSel.overflowSr acc, intcon1 := (x.overflow acc).intcon1 } := by
    rw [State.overflow_eq]
    split <;> rfl
  cases v
  · cases c
    · simp [State.macEvents]
    · simpa [State.macEvents] using State.catastrophic_frame acc s
  · cases c
    · simpa [State.macEvents] using hover s
    · have hcat := State.catastrophic_frame acc (s.overflow acc)
      have hover' := hover s
      simp only [State.macEvents, if_true]
      generalize (s.overflow acc).catastrophic acc = y at hcat ⊢
      generalize s.overflow acc = x at hcat hover'
      rw [hcat, hover']

/-- The saturation mode by the bits of CORCON (R13). -/
theorem State.saturation_eq (acc : AccSel) (s : State) : s.saturation acc =
    if s.corcon.getLsbD (if acc = .a then 7 else 6) then (if s.corcon.getLsbD 4 then .bits39 else .bits31) else .none := by
  cases acc <;> rfl

/-- Where the saturation mode allows an overflow event and a catastrophic one (R135, R136). -/
theorem State.saturation_ne_bits31 {acc : AccSel} {s : State} (h : (s.saturation acc != .bits31) = true) :
    s.corcon.getLsbD (if acc = .a then 7 else 6) = false ∨ s.corcon.getLsbD 4 = true := by
  rw [State.saturation_eq] at h
  cases hsat : s.corcon.getLsbD (if acc = .a then 7 else 6)
  · exact .inl rfl
  · cases h4 : s.corcon.getLsbD 4
    · rw [hsat, h4] at h
      exact absurd h (by decide)
    · exact .inr rfl

theorem State.saturation_none {acc : AccSel} {s : State} (h : (s.saturation acc == .none) = true) :
    s.corcon.getLsbD (if acc = .a then 7 else 6) = false := by
  rw [State.saturation_eq] at h
  cases hsat : s.corcon.getLsbD (if acc = .a then 7 else 6)
  · rfl
  · rw [hsat] at h
    cases h4 : s.corcon.getLsbD 4 <;> rw [h4] at h <;> exact absurd h (by decide)

/-- The state in which the events of a MAC are judged: the accumulator and the SR bits outside IPL free. -/
def State.macWritten (acc : AccSel) (s : State) : State := (s.setAcc acc (Config.freeAcc s.free)).draw.execFlags

theorem State.macResult_of_events (acc : AccSel) (s : State) : s.macResult acc =
    ((s.macWritten acc).macEvents acc ((s.saturation acc != .bits31) && Config.freeBool (s.macWritten acc).free)
      ((s.saturation acc == .none) && Config.freeBool ((s.macWritten acc).free + 1))).draw.draw := rfl

theorem State.detected_macResult (acc : AccSel) (s : State) (a k : Bool) :
    (s.detected a k).macResult acc = (s.macResult acc).detected a k := by
  have hwritten : (s.detected a k).macWritten acc = (s.macWritten acc).detected a k := by cases acc <;> rfl
  have hsat : (s.detected a k).saturation acc = s.saturation acc := rfl
  rw [State.macResult_of_events, State.macResult_of_events, hsat, hwritten, State.detected_free, State.detected_macEvents,
    State.detected_draw, State.detected_draw]

/-- The flags after a MAC: those of events that the saturation mode allows, and SR but for its IPL free (R92, R135, R136). -/
theorem State.macResult_flags (acc : AccSel) (s : State) : ∃ (v c : Bool) (free : Word),
    (v = true → s.corcon.getLsbD (if acc = .a then 7 else 6) = false ∨ s.corcon.getLsbD 4 = true) ∧
    (c = true → s.corcon.getLsbD (if acc = .a then 7 else 6) = false) ∧
    (s.macResult acc).intcon1 = s.intcon1 ||| macMask acc v c s.intcon1 ∧
    (s.macResult acc).sr = mergeBits s.sr free 0xFF1F ||| (if v then AccSel.overflowSr acc else 0) := by
  have hflags : (s.macWritten acc).intcon1 = s.intcon1 := by cases acc <;> rfl
  have hsr : (s.macWritten acc).sr = mergeBits s.sr (Config.freeWord (s.free + 1)) 0xFF1F := by cases acc <;> rfl
  refine ⟨(s.saturation acc != .bits31) && Config.freeBool (s.macWritten acc).free,
    (s.saturation acc == .none) && Config.freeBool ((s.macWritten acc).free + 1), Config.freeWord (s.free + 1), fun h => State.saturation_ne_bits31 (Bool.and_eq_true_iff.mp h).1,
    fun h => State.saturation_none (Bool.and_eq_true_iff.mp h).1, ?_, ?_⟩
  · rw [State.macResult_of_events, State.draw_intcon1, State.draw_intcon1, State.macEvents_intcon1, hflags]
  · rw [State.macResult_of_events, State.draw_sr, State.draw_sr, State.macEvents_frame, hsr]

/-- The other accumulator stays (R92). -/
theorem State.macResult_other (s : State) : (s.macResult .a).accB = s.accB ∧ (s.macResult .b).accA = s.accA := by
  constructor
  · rw [State.macResult_of_events, State.draw_accB, State.draw_accB, State.macEvents_frame]
    rfl
  · rw [State.macResult_of_events, State.draw_accA, State.draw_accA, State.macEvents_frame]
    rfl

theorem getLsbD_macMask (acc : AccSel) (v c : Bool) (old : Word) (i : Nat) : (macMask acc v c old).getLsbD i =
    (v && old.getLsbD (AccSel.enableBit acc) && (AccSel.overflowFlags acc).getLsbD i ||
      c && old.getLsbD 8 && (AccSel.catastrophicFlags acc).getLsbD i) := by
  have hbit (b : Bool) (m : Word) : (if b then m else 0).getLsbD i = (b && m.getLsbD i) := by cases b <;> simp
  rw [macMask, BitVec.getLsbD_or, hbit, hbit]

/-- The events' flags are outside the bits of the enables, the other conditions and the address and stack error (R17). -/
theorem macMask_and_other (acc : AccSel) (v c : Bool) (old : Word) : macMask acc v c old &&& 0x87EF = 0 := by
  apply BitVec.eq_of_getLsbD_eq
  intro i hi
  rw [BitVec.getLsbD_and, getLsbD_macMask]
  interval_cases i <;> cases acc <;> simp [AccSel.overflowFlags, AccSel.catastrophicFlags]

/-- The flags of a MAC whose fetch raised the address error are those of its events (R135, R136). -/
theorem State.macFlags_detected {s x : State} {acc : AccSel} {a k : Bool} {v c : Bool} {free : Word}
    (hv : v = true → s.corcon.getLsbD (if acc = .a then 7 else 6) = false ∨ s.corcon.getLsbD 4 = true)
    (hc : c = true → s.corcon.getLsbD (if acc = .a then 7 else 6) = false)
    (hflags : x.intcon1 = s.intcon1 ||| macMask acc v c s.intcon1)
    (hsr : x.sr = mergeBits s.sr free 0xFF1F ||| (if v then AccSel.overflowSr acc else 0)) :
    s.macFlags (x.detected a k) acc := by
  have hbit (i : Nat) (hi : i ≠ 2 ∧ i ≠ 3) : (x.detected a k).intcon1.getLsbD i =
      (s.intcon1.getLsbD i || (v && s.intcon1.getLsbD (AccSel.enableBit acc) && (AccSel.overflowFlags acc).getLsbD i ||
        c && s.intcon1.getLsbD 8 && (AccSel.catastrophicFlags acc).getLsbD i)) := by
    rw [State.getLsbD_detected, hflags, BitVec.getLsbD_or, getLsbD_macMask]
    simp [hi.1, hi.2]
  have hset (h : v = true) (i : Nat) (hi : (AccSel.overflowSr acc).getLsbD i = true) : (x.detected a k).sr.getLsbD i = true := by
    change x.sr.getLsbD i = true
    rw [hsr, if_pos h, BitVec.getLsbD_or, hi, Bool.or_true]
  have hab : (AccSel.a == AccSel.b) = false := rfl
  have hba : (AccSel.b == AccSel.a) = false := rfl
  refine ⟨v, c, hv, hc, ?_, ?_, ?_, ?_, ?_, ?_, ?_⟩
  case refine_6 => rintro h rfl; exact hset h 15 rfl
  case refine_7 => rintro h rfl; exact hset h 14 rfl
  all_goals
    rw [hbit _ (by decide)]
    cases acc <;> simp [AccSel.overflowFlags, AccSel.catastrophicFlags, AccSel.enableBit, Bool.or_assoc, hab, hba]

end Sys2Proof.Machine
end

section
/-! SUPPORT. The reads that raise the address error (O46): what each form leaves in its destinations, the PC and STKERR. -/

namespace Sys2Proof.Machine

open Sys2Proof

/-! ### What a bad read may change -/

/-- State `x` differs from `s` as an instruction whose read raises the address error may: in the PC, the working registers, SR,
INTCON1, the accumulators, the counts of the wait and of the draws, and in an empty log. -/
def State.ReadShape (s x : State) : Prop :=
  ∃ pc w alt1 alt2 w15 sr intcon1 accA accB skid free, x = { s with
    pc := pc, w := w, alt1 := alt1, alt2 := alt2, w15 := w15, sr := sr, intcon1 := intcon1, accA := accA, accB := accB
    skid := skid, free := free, log := {} }

namespace State.ReadShape

variable {s x : State}

theorem fresh (s : State) : s.ReadShape s.fresh := ⟨_, _, _, _, _, _, _, _, _, _, _, rfl⟩

theorem draw (h : s.ReadShape x) : s.ReadShape x.draw := by
  obtain ⟨_, _, _, _, _, _, _, _, _, _, _, rfl⟩ := h
  exact ⟨_, _, _, _, _, _, _, _, _, _, _, rfl⟩

theorem execFlags (h : s.ReadShape x) : s.ReadShape x.execFlags := by
  obtain ⟨_, _, _, _, _, _, _, _, _, _, _, rfl⟩ := h
  exact ⟨_, _, _, _, _, _, _, _, _, _, _, rfl⟩

theorem setPc {a : PAddr} (h : s.ReadShape x) : s.ReadShape (x.setPc a) := by
  obtain ⟨_, _, _, _, _, _, _, _, _, _, _, rfl⟩ := h
  exact ⟨_, _, _, _, _, _, _, _, _, _, _, rfl⟩

theorem skipNext (h : s.ReadShape x) : s.ReadShape x.skipNext := by
  obtain ⟨_, _, _, _, _, _, _, _, _, _, _, rfl⟩ := h
  exact ⟨_, _, _, _, _, _, _, _, _, _, _, rfl⟩

theorem writeW {i : WReg} {v : Word} (h : s.ReadShape x) : s.ReadShape (x.writeW i v) := by
  rw [State.writeW_frame]
  generalize x.writeW i v = y
  obtain ⟨_, _, _, _, _, _, _, _, _, _, _, rfl⟩ := h
  exact ⟨_, _, _, _, _, _, _, _, _, _, _, rfl⟩

theorem freeRegs {is : List WReg} (h : s.ReadShape x) : s.ReadShape (x.freeRegs is) := by
  rw [State.freeRegs_frame]
  generalize x.freeRegs is = y
  obtain ⟨_, _, _, _, _, _, _, _, _, _, _, rfl⟩ := h
  exact ⟨_, _, _, _, _, _, _, _, _, _, _, rfl⟩

theorem macResult {acc : AccSel} (h : s.ReadShape x) : s.ReadShape (x.macResult acc) := by
  rw [State.macResult_frame]
  generalize x.macResult acc = y
  obtain ⟨_, _, _, _, _, _, _, _, _, _, _, rfl⟩ := h
  exact ⟨_, _, _, _, _, _, _, _, _, _, _, rfl⟩

theorem log (h : s.ReadShape x) : x.log = {} := by
  obtain ⟨_, _, _, _, _, _, _, _, _, _, _, rfl⟩ := h
  rfl

end State.ReadShape

/-- What an instruction of form `i` leaves whose read raises the address error: `x` before its errors are flagged, and whether a stack
check fails (`stk`). -/
structure State.BadRead (s : State) (i : Instr) (x : State) (stk : Bool) : Prop where
  shape : s.ReadShape x
  ipl : x.sr &&& 0x00E0 = s.sr &&& 0x00E0
  load : ∀ size disp r, i = .w15Access (.load size disp r) → x.pc = s.pc + 2 ∧ x.sr = s.sr ∧ s.onlyRegs x [r] ∧
    (stk = true ↔ s.overLimit (s.w15 + disp) ∨ 0xFFFF < (s.w15.toNat : Int) + disp.toInt ∨ x.w15 < 0x1000) := by rintro _ _ _ ⟨⟩
  pop : ∀ r, i = .w15Access (.pop r) → x.pc = s.pc + 2 ∧ x.sr = s.sr ∧ s.onlyRegs x [r, 15] ∧
    (r.val ≠ 15 → x.w15 = s.w15 - 2) ∧ (stk = true ↔ s.overLimit (s.w15 - 2) ∨ x.w15 < 0x1000) := by rintro _ ⟨⟩
  movD : ∀ w p, i = .movD (.indirect w) (.pair p) ∨ i = .movD (.paged w) (.pair p) → x.pc = s.pc + 2 ∧
    s.onlyRegs x [pairLow p, pairHigh p] ∧ (stk = true ↔ s.pointerFails w true ∨ s.leftBelow (w.val = 15) x) := by rintro _ _ (h | h) <;> cases h
  bits : ∀ w, bitThrough i w → s.onlyRegs x [] ∧
    ((x.pc = s.pc + 2 ∧ x.skid = s.skid) ∨
      ((s.readW w).getLsbD 0 = false ∧ x.pc = s.skipTarget ∧ x.skid = if 0 < s.skid then s.skid + 1 else 0)) ∧
    ((s.readW w).getLsbD 0 = true → x.sr = s.sr) ∧
    (stk = true ↔ s.pointerFails w false ∨ (w.val = 15 ∧ s.w15 < 0x1000)) := by
    intro w hw
    simp only [not_bitThrough_movD, not_bitThrough_w15Access, not_bitThrough_macClass] at hw
  mac : ∀ acc p q dsts, i = .macClass acc p q dsts → x.pc = s.pc + 2 ∧ s.onlyRegs x dsts ∧ (acc = .a → x.accB = s.accB) ∧
    (acc = .b → x.accA = s.accA) ∧ x.intcon1 &&& 0x87EF = s.intcon1 &&& 0x87EF ∧ s.macFlags (x.detected true stk) acc ∧
    (stk = true ↔ s.pointerFails p false ∨ s.pointerFails q false ∨ s.leftBelow (p.val = 15 ∨ q.val = 15) x) := by rintro _ _ _ _ ⟨⟩
  plain : (∀ acc p q dsts, i ≠ .macClass acc p q dsts) → x.intcon1 = s.intcon1 ∧ x.accA = s.accA ∧ x.accB = s.accB
  skid : (∀ w, ¬bitThrough i w) → x.skid = s.skid

/-- An instruction goes on with the address error detected and a destination of its own free at most. -/
def State.goesOnFree (s : State) (i : Instr) : Prop :=
  ∃ x stk, exec i s = .next (x.detected true stk) ∧ s.BadRead i x stk

/-! ### Accesses through W15 -/

section
variable {s : State} {i : Instr}

theorem State.goesOnFree_load {size : Size} {disp : Word} {r : WReg} (hfree : s.addrErrorFree)
    (hbad : s.badAccess size (s.w15 + disp) = true) : s.goesOnFree (.w15Access (.load size disp r)) := by
  have hbad' : s.fresh.badAccess size (s.fresh.stackEa disp) = true := hbad
  have hrun : exec (.w15Access (.load size disp r)) s = .next (s.fresh.finishStack
      ((s.fresh.writeW r (Config.freeWord s.free)).draw.detected true (s.pastLimit (s.w15 + disp) || s.stackCarry disp))) := by
    change execW15Access (.load size disp r) s = _
    simp only [execW15Access, State.stackLoad, State.stackCheck_detected, State.detected_badAccess, hbad', if_true,
      State.raiseHard_addr, State.detected_detected, State.detected_writeW, State.detected_draw, State.detected_free,
      Bool.or_false, Bool.false_or]
    rfl
  refine ⟨_, _, hrun.trans (congrArg _ (State.finishStack_detected (by simp) (by simp) fun _ => hfree)), {
    shape := (State.ReadShape.fresh s).writeW.draw.setPc
    ipl := by simp
    load := ?_
    plain := fun _ => by simp
    skid := fun _ => by simp }⟩
  rintro _ _ _ ⟨⟩
  have hreg : s.onlyRegs (s.fresh.writeW r (Config.freeWord s.free)) [r] :=
    State.onlyRegs_writeW (State.onlyRegs_refl s _) rfl rfl (List.mem_singleton_self r)
  refine ⟨by simp, by simp, State.onlyRegs_congr hreg rfl rfl rfl rfl rfl rfl, ?_⟩
  rw [Bool.or_eq_true, Bool.or_eq_true, State.pastLimit_iff, or_assoc, decide_eq_true_eq, State.stackCarry, decide_eq_true_eq]
  rfl

theorem State.goesOnFree_pop {r : WReg} (hfree : s.addrErrorFree) (hbad : s.badAccess .word (s.w15 - 2) = true) :
    s.goesOnFree (.w15Access (.pop r)) := by
  have hpop : s.fresh.pop16 = (s.fresh.writeW 15 (s.w15 - 2)).draw.detected true (s.pastLimit (s.w15 - 2)) :=
    (State.pop16_detected s.fresh).trans (if_pos hbad)
  have hrun := exec_pop s r
  rw [hpop, State.detected_writeW] at hrun
  refine ⟨_, _, hrun.trans (congrArg _ (State.finishStack_detected (by simp) (by simp) fun _ => hfree)), {
    shape := (State.ReadShape.fresh s).writeW.draw.writeW.setPc
    ipl := by simp
    pop := ?_
    plain := fun _ => by simp
    skid := fun _ => by simp }⟩
  rintro _ ⟨⟩
  have hsp : s.onlyRegs (s.fresh.writeW 15 (s.w15 - 2)).draw [r, 15] :=
    State.onlyRegs_writeW (State.onlyRegs_refl s _) rfl rfl (by simp)
  refine ⟨by simp, by simp, State.onlyRegs_congr (State.onlyRegs_writeW hsp (by simp) (by simp) (by simp))
    rfl rfl rfl rfl rfl rfl, State.w15_writeW, ?_⟩
  rw [Bool.or_eq_true, State.pastLimit_iff, decide_eq_true_eq]
  rfl

/-! ### MOV.D -/

/-- The underflow check at the end of an access that used a pointer or moved W15. -/
theorem State.leftBelow_iff {used : Bool} {x : State} :
    ((used || x.w15 != s.w15) && decide (x.w15 < 0x1000)) = true ↔ s.leftBelow (used = true) x := by
  simp [State.leftBelow]

theorem State.goesOnFree_movD {p : Fin 8} {src : DwOperand} {w : WReg} (hfree : s.addrErrorFree) (hsrc : DwOperand.through src w)
    (hbad : s.dwBad src s.dsrpag = true) : s.goesOnFree (.movD src (.pair p)) := by
  obtain ⟨lo, hi, hrun⟩ : ∃ lo hi, exec (.movD src (.pair p)) s = .next (s.fresh.finish (w.val == 15)
      (((s.fresh.draw.draw.execFlags.writeW (pairLow p) lo).writeW (pairHigh p) hi).detected true (s.pointerStk w true))) := by
    have hbad' : (s.fresh.dwBad src s.fresh.dsrpag || s.fresh.dwBad (.pair p) s.fresh.dswpag) = true := by
      rw [Bool.or_eq_true]
      refine .inl (Eq.trans ?_ hbad)
      rcases hsrc with rfl | rfl <;> rfl
    refine ⟨(s.fresh.dwValue src).1, (s.fresh.dwValue src).2, ?_⟩
    change execMovD src (.pair p) s = _
    have hpair (x : State) : x.dwCheck (.pair p) = x := rfl
    have hinMemory : DwOperand.inMemory (.pair p) = false := rfl
    have hunused : DwOperand.usesW15 (.pair p) = false := rfl
    simp only [execMovD, hbad', hinMemory, hunused, hpair, Bool.and_false, Bool.false_eq_true, if_false, if_true,
      State.dwCheck_through hsrc, DwOperand.usesW15_through hsrc, State.raiseHard_addr, State.detected_detected,
      State.detected_draw, State.detected_execFlags, State.dwStore, State.detected_writeW, andThen_next, Bool.or_false,
      Bool.false_or]
    rfl
  have hsame : s.onlyRegs s.fresh.draw.draw.execFlags [pairLow p, pairHigh p] :=
    State.onlyRegs_congr (State.onlyRegs_refl s _) (by simp) (by simp) (by simp) (by simp) (by simp) (by simp)
  have hlow : s.onlyRegs (s.fresh.draw.draw.execFlags.writeW (pairLow p) lo) [pairLow p, pairHigh p] :=
    State.onlyRegs_writeW hsame (by simp) (by simp) (by simp)
  rw [State.finish_detected (s := s) (a := true) (by simp) (by simp) fun _ => hfree] at hrun
  refine ⟨_, _, hrun, {
    shape := (State.ReadShape.fresh s).draw.draw.execFlags.writeW.writeW.setPc
    ipl := ?_
    movD := fun w' p' hi => ?_
    plain := fun _ => by simp
    skid := fun _ => by simp }⟩
  · rw [State.advance_sr, State.writeW_sr, State.writeW_sr]
    exact execFlags_ipl _ _
  · obtain ⟨rfl, rfl⟩ : w' = w ∧ p' = p := by
      rcases hsrc with rfl | rfl <;> rcases hi with hi | hi <;> cases hi <;> exact ⟨rfl, rfl⟩
    refine ⟨by simp, State.onlyRegs_congr (State.onlyRegs_writeW hlow (by simp) (by simp) (by simp))
      rfl rfl rfl rfl rfl rfl, ?_⟩
    rw [Bool.or_eq_true, State.pointerStk_iff, State.leftBelow_iff, beq_iff_eq]
    rfl

/-! ### Bit tests -/

/-- Where a skip goes is the statement's address after the next instruction (R72, R96). -/
theorem State.afterInstr_next (s : State) : s.afterInstr (s.pc + 2) = s.skipTarget := by
  have hfour : s.pc + 2 + 2 = s.pc + 4 := by bv_omega
  have hsix : s.pc + 2 + 4 = s.pc + 6 := by bv_omega
  simp only [State.afterInstr, State.skipTarget, isGoto, matchesRow, Bool.and_eq_true, Option.isNone_iff_eq_none, beq_iff_eq,
    hfour, hsix]

theorem State.skipTarget_congr {s t : State} (hpc : t.pc = s.pc) (hprog : t.prog = s.prog) (hsym : t.symbolic = s.symbolic) :
    t.skipTarget = s.skipTarget := by
  have hsymbolic (a : PAddr) : t.symbolicAt a = s.symbolicAt a := by rw [State.symbolicAt, hsym, State.symbolicAt]
  have hbyte (a : Nat) : t.progByte a = s.progByte a := by rw [State.progByte, hprog, State.progByte]
  have hword (a : PAddr) : t.progWord a = s.progWord a := by rw [State.progWord, hbyte, hbyte, hbyte, State.progWord]
  unfold State.skipTarget
  rw [hpc]
  exact if_congr (by rw [hsymbolic, hword]) rfl rfl

/-- A bit test through an even address of an operand that cannot be read tests a free bit (R53, R96). -/
theorem State.testSkip_bad {want : Bool} {bit : Fin 16} {op : Operand} {w : WReg} (hop : Operand.through op w)
    (heven : (s.readW w).getLsbD 0 = false) (hbad : s.badRead .word op = true) (hfree : s.addrErrorFree) :
    ∃ x, (x = s.fresh.draw.execFlags.skipNext ∨ x = s.fresh.draw.execFlags.advance) ∧ s.testSkip want bit op =
      x.detected true (s.pointerStk w false || (w.val == 15 && decide (s.w15 < 0x1000))) := by
  have heven' : s.fresh.oddIndirect op = false := (State.oddIndirect_through hop).trans heven
  have hbad' : s.fresh.badRead .word op = true := by
    refine Eq.trans ?_ hbad
    rcases hop with rfl | rfl <;> rfl
  have hend (x : State) (hlog : x.log = {}) (hflags : x.intcon1 = s.intcon1) (hw15 : x.w15 = s.w15) :
      ((x.detected true (s.pointerStk w false)).underflowAfter (w.val == 15) s.w15).settle s.cpuIpl =
        x.detected true (s.pointerStk w false || (w.val == 15 && decide (s.w15 < 0x1000))) := by
    rw [State.underflowAfter_detected, State.detected_detected, State.detected_w15, hw15, bne_self_eq_false, Bool.or_false,
      Bool.or_false]
    exact State.settle_detected hlog (congrArg (·.getLsbD 1) hflags) fun _ => hfree
  have hskip : s.testSkip want bit op = (((if s.fresh.operandBit bit op = want
      then s.fresh.draw.execFlags.skipNext.detected true (s.pointerStk w false)
      else s.fresh.draw.execFlags.advance.detected true (s.pointerStk w false)).underflowAfter (w.val == 15) s.w15).settle
        s.cpuIpl) := by
    simp only [State.testSkip, heven', hbad', Bool.false_eq_true, if_false, if_true, State.operandCheck_through hop,
      Operand.usesW15_through hop, State.raiseHard_addr, State.detected_detected, State.detected_draw, State.detected_execFlags,
      State.detected_skipNext, State.detected_advance, Bool.or_false, Bool.false_or]
    rfl
  rw [hskip]
  split
  · exact ⟨_, .inl rfl, hend _ rfl rfl rfl⟩
  · exact ⟨_, .inr rfl, hend _ rfl rfl rfl⟩

section
variable (s : State)

theorem State.skipNext_pc : s.skipNext.pc = s.skipTarget := s.afterInstr_next

@[simp] theorem State.skipNext_w : s.skipNext.w = s.w := rfl
@[simp] theorem State.skipNext_alt1 : s.skipNext.alt1 = s.alt1 := rfl
@[simp] theorem State.skipNext_alt2 : s.skipNext.alt2 = s.alt2 := rfl
@[simp] theorem State.skipNext_w15 : s.skipNext.w15 = s.w15 := rfl
@[simp] theorem State.skipNext_dev : s.skipNext.dev = s.dev := rfl
@[simp] theorem State.skipNext_activeCtx : s.skipNext.activeCtx = s.activeCtx := rfl

end

/-- A bit test that goes on or skips with nothing else changed than SR outside IPL, and that not where the address is odd. -/
theorem State.goesOnFree_of_bits {x : State} {w : WReg} (hw : bitThrough i w)
    (hx : x = s.fresh.advance ∨ ((s.readW w).getLsbD 0 = false ∧
      (x = s.fresh.draw.execFlags.skipNext ∨ x = s.fresh.draw.execFlags.advance)))
    (hrun : exec i s = .next (x.detected true (s.pointerStk w false || (w.val == 15 && decide (s.w15 < 0x1000))))) :
    s.goesOnFree i := by
  have hipl : (s.fresh.draw.execFlags).sr &&& 0x00E0 = s.sr &&& 0x00E0 := execFlags_ipl _ _
  have hregs : s.onlyRegs x [] := by
    refine State.onlyRegs_congr (State.onlyRegs_refl s _) ?_ ?_ ?_ ?_ ?_ ?_ <;> rcases hx with rfl | ⟨-, rfl | rfl⟩ <;> simp
  have hskip : s.fresh.draw.execFlags.skipNext.pc = s.skipTarget :=
    (State.skipNext_pc _).trans (State.skipTarget_congr (by simp) (by simp) (by simp))
  have hno (hodd : (s.readW w).getLsbD 0 = true) (heven : (s.readW w).getLsbD 0 = false) : False :=
    Bool.false_ne_true (heven.symm.trans hodd)
  refine ⟨x, _, hrun, {
    shape := ?_
    ipl := ?_
    load := fun size disp r h => absurd (h ▸ hw) not_bitThrough_w15Access
    pop := fun r h => absurd (h ▸ hw) not_bitThrough_w15Access
    movD := fun w' p h => ?_
    bits := fun w' hw' => ?_
    mac := fun acc p q dsts h => absurd (h ▸ hw) not_bitThrough_macClass
    plain := fun _ => ?_
    skid := fun h => absurd hw (h w) }⟩
  · rcases hx with rfl | ⟨-, rfl | rfl⟩
    · exact (State.ReadShape.fresh s).setPc
    · exact (State.ReadShape.fresh s).draw.execFlags.skipNext
    · exact (State.ReadShape.fresh s).draw.execFlags.setPc
  · rcases hx with rfl | ⟨-, rfl | rfl⟩
    · rfl
    · exact hipl
    · exact hipl
  · rcases h with h | h <;> exact absurd (h ▸ hw) not_bitThrough_movD
  · obtain rfl := bitThrough_unique hw hw'
    rcases hx with rfl | ⟨heven, rfl | rfl⟩
    · exact ⟨hregs, .inl ⟨rfl, rfl⟩, fun _ => rfl, State.pointerStk_or_underflow⟩
    · exact ⟨hregs, .inr ⟨heven, hskip, rfl⟩, fun hodd => (hno hodd heven).elim, State.pointerStk_or_underflow⟩
    · exact ⟨hregs, .inl ⟨rfl, rfl⟩, fun hodd => (hno hodd heven).elim, State.pointerStk_or_underflow⟩
  · rcases hx with rfl | ⟨-, rfl | rfl⟩ <;> exact ⟨rfl, rfl, rfl⟩

theorem State.goesOnFree_bits {bit : Fin 16} {op : Operand} {w : WReg} (hfree : s.addrErrorFree) (hop : Operand.through op w)
    (hi : i = .btsc bit op ∨ i = .btss bit op) (hbad : (s.readW w).getLsbD 0 = true ∨ s.badRead .word op = true) :
    s.goesOnFree i := by
  have hw : bitThrough i w := hi.elim (fun h => h ▸ bitThrough_btsc.mpr hop) fun h => h ▸ bitThrough_btss.mpr hop
  cases hodd : (s.readW w).getLsbD 0
  · have hbad' := hbad.resolve_left (ne_of_eq_of_ne hodd Bool.false_ne_true)
    rcases hi with rfl | rfl
    · obtain ⟨x, hx, hrun⟩ := State.testSkip_bad (want := false) (bit := bit) hop hodd hbad' hfree
      exact State.goesOnFree_of_bits hw (.inr ⟨hodd, hx⟩) (congrArg Host.Outcome.next hrun)
    · obtain ⟨x, hx, hrun⟩ := State.testSkip_bad (want := true) (bit := bit) hop hodd hbad' hfree
      exact State.goesOnFree_of_bits hw (.inr ⟨hodd, hx⟩) (congrArg Host.Outcome.next hrun)
  · exact State.goesOnFree_of_bits hw (.inl rfl)
      ((exec_bitTest_odd hi hop hodd).trans (congrArg _ (State.finish_through hfree s.sr s.free)))

/-! ### The MAC class -/

theorem exec_macClass_bad {acc : AccSel} {p q : WReg} {dsts : List WReg} (hdsp : s.dev.hasDsp = true)
    (hbad : (s.badX (s.readW p) || s.badY (s.readW q)) = true) : exec (.macClass acc p q dsts) s =
      .next (((((s.fresh.macResult acc).freeRegs dsts).advance.detected true (s.pointerStk p false || s.pointerStk q false)
        ).underflowAfter (p.val == 15 || q.val == 15) s.w15).settle s.cpuIpl) := by
  have hbad' : (s.fresh.badX (s.fresh.readW p) || s.fresh.badY (s.fresh.readW q)) = true := hbad
  have hsecond (k : Bool) : (s.fresh.detected false k).pointerCheck q (s.fresh.readW q) false =
      (s.fresh.detected false k).detected false (s.pointerStk q false) := State.pointerCheck_word (s.fresh.detected false k) q
  have hfirst : s.fresh.pointerCheck p (s.fresh.readW p) false = s.fresh.detected false (s.pointerStk p false) :=
    State.pointerCheck_word s.fresh p
  change execMacClass acc p q dsts s = _
  simp only [execMacClass, hdsp, Bool.not_true, Bool.false_eq_true, if_false, hfirst, hsecond, hbad', if_true,
    State.raiseHard_addr, State.detected_detected, State.detected_macResult, State.detected_freeRegs, State.detected_advance,
    Bool.or_false, Bool.false_or]
  rfl

/-- A bit that no event's flag has stays in the result of a MAC. -/
theorem State.macResult_and_other {acc : AccSel} {x : State} {v c : Bool}
    (h : x.intcon1 = s.intcon1 ||| macMask acc v c s.intcon1) : x.intcon1 &&& 0x87EF = s.intcon1 &&& 0x87EF := by
  rw [h, BitVec.and_comm, BitVec.and_or_distrib_left, BitVec.and_comm _ (macMask ..), macMask_and_other]
  exact BitVec.or_zero.trans (BitVec.and_comm ..)

theorem State.goesOnFree_macClass {acc : AccSel} {p q : WReg} {dsts : List WReg} (hfree : s.addrErrorFree)
    (hdsp : s.dev.hasDsp = true) (hbad : (s.badX (s.readW p) || s.badY (s.readW q)) = true) :
    s.goesOnFree (.macClass acc p q dsts) := by
  obtain ⟨v, c, free, hv, hc, hflags, hsr⟩ := State.macResult_flags acc s.fresh
  have hother : s.onlyRegs ((s.fresh.macResult acc).freeRegs dsts) dsts :=
    State.onlyRegs_freeRegs dsts (State.onlyRegs_congr (State.onlyRegs_refl s _) (by simp) (by simp) (by simp) (by simp)
      (by simp) (by simp)) (by simp) (by simp) fun _ h => h
  generalize hx : ((s.fresh.macResult acc).freeRegs dsts).advance = x
  have hshape : s.ReadShape x := hx ▸ (State.ReadShape.fresh s).macResult.freeRegs.setPc
  have hxflags : x.intcon1 = s.intcon1 ||| macMask acc v c s.intcon1 := by simpa [← hx] using hflags
  have hxsr : x.sr = mergeBits s.sr free 0xFF1F ||| (if v then AccSel.overflowSr acc else 0) := by simpa [← hx] using hsr
  have hkept := State.macResult_and_other hxflags
  have hosc : x.intcon1.getLsbD 1 = s.intcon1.getLsbD 1 := by
    simpa using congrArg (·.getLsbD 1) hkept
  have hrun := exec_macClass_bad (acc := acc) (dsts := dsts) hdsp hbad
  rw [hx, State.underflowAfter_detected, State.detected_detected, State.detected_w15, Bool.or_false,
    State.settle_detected hshape.log hosc fun _ => hfree] at hrun
  refine ⟨x, _, hrun, {
    shape := hshape
    ipl := ?_
    mac := ?_
    plain := fun h => absurd rfl (h acc p q dsts)
    skid := fun _ => by simp [← hx] }⟩
  · have hno : (if v then AccSel.overflowSr acc else 0) &&& 0x00E0 = 0 := by cases v <;> cases acc <;> decide
    rw [hxsr, BitVec.and_comm, BitVec.and_or_distrib_left, BitVec.and_comm, BitVec.and_comm _ (ite ..), hno]
    exact BitVec.or_zero.trans (execFlags_ipl _ _)
  · rintro _ _ _ _ ⟨⟩
    refine ⟨by simp [← hx], hx ▸ hother, ?_, ?_, hkept, State.macFlags_detected hv hc hxflags hxsr, ?_⟩
    · rintro rfl; simpa [← hx] using (State.macResult_other s.fresh).1
    · rintro rfl; simpa [← hx] using (State.macResult_other s.fresh).2
    · rw [Bool.or_eq_true, Bool.or_eq_true, State.pointerStk_iff, State.pointerStk_iff, State.leftBelow_iff, or_assoc,
        Bool.or_eq_true, beq_iff_eq, beq_iff_eq]

end

end Sys2Proof.Machine
end

section
/-! SUPPORT. The statement on the reads that raise the address error (O46). -/

namespace Sys2Proof.Machine

open Sys2Proof

/-- Every form that reads badly goes on with its own destinations free at most (R53, R55, R57, R92). -/
theorem State.goesOnFree_of_readsBadly {s : State} {i : Instr} (hfree : s.addrErrorFree) (h : s.readsBadly i) : s.goesOnFree i := by
  rcases h with ⟨size, disp, r, rfl, hbad⟩ | ⟨r, rfl, hbad⟩ | ⟨w, p, rfl, hbad⟩ | ⟨w, p, rfl, hbad⟩ | ⟨bit, w, hi, hbad⟩ |
    ⟨bit, w, hi, hbad⟩ | ⟨acc, x, y, dsts, rfl, hdsp, hbad⟩
  · exact State.goesOnFree_load hfree hbad
  · exact State.goesOnFree_pop hfree hbad
  · exact State.goesOnFree_movD hfree (DwOperand.through_indirect w) (Bool.or_eq_true_iff.mpr hbad)
  · exact State.goesOnFree_movD hfree (DwOperand.through_paged w) (by simpa [State.dwBad, or_comm] using hbad)
  · exact State.goesOnFree_bits hfree (Operand.through_paged w) hi (hbad.imp_right fun hpage => by simp [State.badRead, hpage])
  · exact State.goesOnFree_bits hfree (Operand.through_indirect w) hi (.inr hbad)
  · exact State.goesOnFree_macClass hfree hdsp (by simpa [State.badX, State.badY, or_assoc] using hbad)

end Sys2Proof.Machine

namespace Sys2Proof.Proofs

open Sys2Proof Sys2Proof.Machine

/-- Settles O46: whatever the form, the instruction goes on from a state with its data memory, in which the address error and the
failed stack checks are detected. -/
theorem badReadRaisesAddressError : Obligations.BadReadRaisesAddressError := by
  intro s i hfree hbad
  obtain ⟨x, stk, hrun, h⟩ := State.goesOnFree_of_readsBadly hfree hbad
  have hset (hi : ∀ acc p q dsts, i ≠ .macClass acc p q dsts) {P : Prop} (hP : stk = true ↔ P) :
      s.addrErrorSet (x.detected true stk) P :=
    State.addrErrorSet_detected (h.plain hi).1 hP
  refine ⟨_, hrun, State.addrLogged_detected h.shape.log, h.ipl, fun size disp r hi => ?_, fun r hi => ?_, fun w p hi => ?_,
    fun w hw => ?_, fun acc p q dsts hi => ?_, fun hi => ?_, h.skid, ?_⟩
  · obtain ⟨hpc, hsr, hregs, hP⟩ := h.load size disp r hi
    exact ⟨hpc, hsr, hregs, hset (by simp [hi]) hP⟩
  · obtain ⟨hpc, hsr, hregs, hw15, hP⟩ := h.pop r hi
    exact ⟨hpc, hsr, hregs, hw15, hset (by simp [hi]) hP⟩
  · obtain ⟨hpc, hregs, hP⟩ := h.movD w p hi
    exact ⟨hpc, hregs, hset (by rcases hi with rfl | rfl <;> simp) hP⟩
  · obtain ⟨hregs, hpc, hsr, hP⟩ := h.bits w hw
    exact ⟨hregs, hpc, hsr, hset (fun _ _ _ _ hi => not_bitThrough_macClass (hi ▸ hw)) hP⟩
  · obtain ⟨hpc, hregs, haccB, haccA, hkept, hflags, hP⟩ := h.mac acc p q dsts hi
    have hbit (j : Nat) (hj : (0x87EF : Word).getLsbD j = true) : x.intcon1.getLsbD j = s.intcon1.getLsbD j := by
      simpa only [BitVec.getLsbD_and, hj, Bool.and_true] using congrArg (·.getLsbD j) hkept
    refine ⟨hpc, hregs, haccB, haccA, ?_, ?_, hflags, ?_⟩
    · rw [State.getLsbD_detected]
      simp
    · apply BitVec.eq_of_getLsbD_eq
      intro j hj
      rw [BitVec.getLsbD_and, BitVec.getLsbD_and, State.getLsbD_detected]
      cases hm : (0x87E3 : Word).getLsbD j
      · rw [Bool.and_false, Bool.and_false]
      · have hin : (0x87EF : Word).getLsbD j = true ∧ j ≠ 3 ∧ j ≠ 2 := by
          revert hm
          interval_cases j <;> decide
        simp [hbit j hin.1, hin.2.1, hin.2.2]
    · rw [State.getLsbD_detected_stk, hbit 2 rfl, Bool.or_eq_true, hP]
      rfl
  · obtain ⟨-, haccA, haccB⟩ := h.plain hi
    exact ⟨haccA, haccB⟩
  · obtain ⟨pc, w, alt1, alt2, w15, sr, intcon1, accA, accB, skid, free, rfl⟩ := h.shape
    rfl

end Sys2Proof.Proofs
end

section
/-! SUPPORT. Slices of words, the rows of the opcode table, and the decoder on whole words (R72, R74): what the statements on the
encoding (O1, O2, O4) are made of. -/

namespace Sys2Proof

/-! ### Slices of words put together -/

section
variable {a b c : Nat} (x : BitVec a) (y : BitVec b) (z : BitVec c)

theorem extract_high_append : (x ++ y ++ z).extractLsb' (c + b) a = x := by
  rw [BitVec.extractLsb'_append_eq_of_le (Nat.le_add_right c b), Nat.add_sub_cancel_left, BitVec.extractLsb'_append_eq_left]

theorem extract_middle_append : (x ++ y ++ z).extractLsb' c b = y := by
  rw [BitVec.extractLsb'_append_eq_of_le (Nat.le_refl c), Nat.sub_self, BitVec.extractLsb'_append_eq_right]

/-- A word is its three slices put together. -/
theorem append_three_extract (w : BitVec (a + b + c)) :
    w.extractLsb' (c + b) a ++ w.extractLsb' c b ++ w.extractLsb' 0 c = w := by
  rw [BitVec.extractLsb'_append_extractLsb'_eq_extractLsb' rfl]
  exact BitVec.extractLsb'_append_extractLsb'

end

theorem append_eq_append {m n : Nat} {x x' : BitVec m} {y y' : BitVec n} (h : x ++ y = x' ++ y') : x = x' ∧ y = y' := by
  constructor
  · rw [← BitVec.extractLsb'_append_eq_left (a := x) (b := y), h, BitVec.extractLsb'_append_eq_left]
  · rw [← BitVec.extractLsb'_append_eq_right (a := x) (b := y), h, BitVec.extractLsb'_append_eq_right]

/-- A word whose high part is fixed by a row's mask is that part with the word's own low part (R72). -/
theorem eq_append_of_and_high {m n : Nat} {w : BitVec (m + n)} {hi : BitVec m}
    (h : w &&& (BitVec.allOnes m ++ 0#n) = hi ++ 0#n) : w = hi ++ w.extractLsb' 0 n := by
  have hsplit : w.extractLsb' n m ++ w.extractLsb' 0 n = w := BitVec.extractLsb'_append_extractLsb'
  rw [← hsplit, BitVec.and_append, BitVec.and_allOnes, BitVec.and_zero] at h
  rw [← (append_eq_append h).1, hsplit]

theorem append_and_high {m n : Nat} (hi : BitVec m) (lo : BitVec n) :
    (hi ++ lo) &&& (BitVec.allOnes m ++ 0#n) = hi ++ 0#n := by
  rw [BitVec.and_append, BitVec.and_allOnes, BitVec.and_zero]

/-! ### Words and their bytes -/

theorem bytesOfWord_wordOfBytes (b0 b1 b2 : Byte) : bytesOfWord (wordOfBytes b0 b1 b2) = [b0, b1, b2] := by
  have hlow : (wordOfBytes b0 b1 b2).extractLsb' 0 8 = b0 := BitVec.extractLsb'_append_eq_right
  have hmiddle : (wordOfBytes b0 b1 b2).extractLsb' 8 8 = b1 := extract_middle_append b2 b1 b0
  have hhigh : (wordOfBytes b0 b1 b2).extractLsb' 16 8 = b2 := extract_high_append b2 b1 b0
  rw [bytesOfWord, hlow, hmiddle, hhigh]

theorem wordOfBytes_extract (w : PWord) :
    wordOfBytes (w.extractLsb' 0 8) (w.extractLsb' 8 8) (w.extractLsb' 16 8) = w :=
  append_three_extract (a := 8) (b := 8) (c := 8) w

/-! ### Rows of the table -/

theorem matchesRow_iff {w mask value : PWord} : matchesRow w mask value = true ↔ w &&& mask = value := beq_iff_eq

theorem matchesRow_eq_false {w mask value : PWord} (h : w &&& mask ≠ value) : matchesRow w mask value = false :=
  beq_false_of_ne h

theorem and_full_mask (w : PWord) : w &&& 0xFFFFFF = w := BitVec.and_allOnes

/-- A row that fixes every bit is one word (R72). -/
theorem matchesRow_full {w value : PWord} : matchesRow w 0xFFFFFF value = true ↔ w = value := by
  rw [matchesRow_iff, and_full_mask]

/-- Rows whose values differ in a bit that both fix have no word in common. -/
theorem matchesRow_disjoint {w m v m' v' : PWord} (h : matchesRow w m v = true) (hne : v &&& m' ≠ v' &&& m) :
    matchesRow w m' v' = false := by
  refine matchesRow_eq_false fun h' => hne ?_
  rw [← matchesRow_iff.mp h, ← h', BitVec.and_assoc, BitVec.and_assoc, BitVec.and_comm m m']

/-! ### The encoded forms of the rows with operands (R72) -/

/-- The first word of a GOTO: its opcode, the target's bits 15 to 1, and a 0. -/
theorem isGoto_append (lo : BitVec 15) : isGoto (0x04#8 ++ lo ++ 0#1) = true := by
  have hrow : (0x04#8 ++ lo ++ 0#1) &&& (BitVec.allOnes 8 ++ 0#15 ++ BitVec.allOnes 1) = 0x04#8 ++ 0#15 ++ 0#1 := by
    rw [BitVec.and_append, BitVec.and_append, BitVec.and_allOnes, BitVec.and_zero, BitVec.and_allOnes]
  exact matchesRow_iff.mpr hrow

theorem eq_append_of_isGoto {w : PWord} (h : isGoto w = true) : w = 0x04#8 ++ w.extractLsb' 1 15 ++ 0#1 := by
  have hrow : w &&& (BitVec.allOnes 8 ++ 0#15 ++ BitVec.allOnes 1) = 0x04#8 ++ 0#15 ++ 0#1 := matchesRow_iff.mp h
  have hsplit : w.extractLsb' 16 8 ++ w.extractLsb' 1 15 ++ w.extractLsb' 0 1 = w :=
    append_three_extract (a := 8) (b := 15) (c := 1) w
  rw [← hsplit, BitVec.and_append, BitVec.and_append, BitVec.and_allOnes, BitVec.and_zero, BitVec.and_allOnes] at hrow
  obtain ⟨hupper, hlow⟩ := append_eq_append hrow
  rw [← (append_eq_append hupper).1, ← hlow, hsplit]

/-- The second word of a GOTO: the target's bits 22 to 16 under zeros. -/
theorem gotoSecond_append (hi : BitVec 7) : matchesRow (0#17 ++ hi) 0xFFFF80 0x000000 = true :=
  matchesRow_iff.mpr (append_and_high 0#17 hi)

theorem eq_append_of_gotoSecond {w : PWord} (h : matchesRow w 0xFFFF80 0x000000 = true) : w = 0#17 ++ w.extractLsb' 0 7 :=
  eq_append_of_and_high (n := 7) (hi := 0#17) (matchesRow_iff.mp h)

theorem disi_append (lit14 : BitVec 14) : matchesRow (0b1111110000#10 ++ lit14) 0xFFC000 0xFC0000 = true :=
  matchesRow_iff.mpr (append_and_high 0b1111110000#10 lit14)

theorem eq_append_of_disi {w : PWord} (h : matchesRow w 0xFFC000 0xFC0000 = true) :
    w = 0b1111110000#10 ++ w.extractLsb' 0 14 :=
  eq_append_of_and_high (n := 14) (hi := 0b1111110000#10) (matchesRow_iff.mp h)

theorem bra_append (slit16 : BitVec 16) : matchesRow (0x37#8 ++ slit16) 0xFF0000 0x370000 = true :=
  matchesRow_iff.mpr (append_and_high 0x37#8 slit16)

theorem eq_append_of_bra {w : PWord} (h : matchesRow w 0xFF0000 0x370000 = true) : w = 0x37#8 ++ w.extractLsb' 0 16 :=
  eq_append_of_and_high (n := 16) (hi := 0x37#8) (matchesRow_iff.mp h)

/-- A GOTO's target is what its two words hold of it, bit 0 being 0. -/
theorem goto_target_append {target : BitVec 23} (h : target.getLsbD 0 = false) :
    target.extractLsb' 16 7 ++ target.extractLsb' 1 15 ++ 0#1 = target := by
  have hlow : target.extractLsb' 0 1 = 0#1 := by
    apply BitVec.eq_of_getLsbD_eq
    intro i hi
    obtain rfl : i = 0 := by omega
    simpa using h
  rw [← hlow]
  exact append_three_extract (a := 7) (b := 15) (c := 1) target

/-! ### The rows on encoded words -/

theorem decodeOne_disi (lit14 : BitVec 14) : decodeOne (0b1111110000#10 ++ lit14) = .ok (.disi lit14) := by
  have hrow := disi_append lit14
  have hlit : (0b1111110000#10 ++ lit14).extractLsb' 0 14 = lit14 := BitVec.extractLsb'_append_eq_right
  simp (disch := decide) only [decodeOne, matchesRow_disjoint hrow, hrow, hlit, Bool.false_eq_true, if_false, if_true]

theorem decodeOne_bra (slit16 : BitVec 16) : decodeOne (0x37#8 ++ slit16) = .ok (.bra slit16) := by
  have hrow := bra_append slit16
  have hlit : (0x37#8 ++ slit16).extractLsb' 0 16 = slit16 := BitVec.extractLsb'_append_eq_right
  simp (disch := decide) only [decodeOne, matchesRow_disjoint hrow, hrow, hlit, Bool.false_eq_true, if_false, if_true]

theorem decodeGoto_append (lo : BitVec 15) (hi : BitVec 7) :
    decodeGoto (0x04#8 ++ lo ++ 0#1) (0#17 ++ hi) = .ok (.goto (hi ++ lo ++ 0#1)) := by
  have hlo : (0x04#8 ++ lo ++ 0#1).extractLsb' 1 15 = lo := extract_middle_append ..
  have hhi : (0#17 ++ hi).extractLsb' 0 7 = hi := BitVec.extractLsb'_append_eq_right
  rw [decodeGoto, if_pos (gotoSecond_append hi), hlo, hhi]

/-- What an instruction of one word encodes to is read back by the table's rows. -/
theorem decodeOne_of_encode {i : Instr} {w : PWord} (h : encode i = some [w]) : isGoto w = false ∧ decodeOne w = .ok i := by
  cases i with
  | disi lit14 =>
    obtain rfl : 0b1111110000#10 ++ lit14 = w := by simpa [encode] using h
    exact ⟨matchesRow_disjoint (disi_append lit14) (by decide), decodeOne_disi lit14⟩
  | bra slit16 =>
    obtain rfl : 0x37#8 ++ slit16 = w := by simpa [encode] using h
    exact ⟨matchesRow_disjoint (bra_append slit16) (by decide), decodeOne_bra slit16⟩
  | pwrsav m => cases m <;> cases h <;> exact ⟨rfl, rfl⟩
  | nop | retfie | ret | reset => cases h; exact ⟨rfl, rfl⟩
  | _ => cases h

/-- A GOTO of an even target encodes to two words that are read back as it. -/
theorem decodeGoto_of_encode {i : Instr} {w1 w2 : PWord} (hwf : i.wf = true) (h : encode i = some [w1, w2]) :
    isGoto w1 = true ∧ decodeGoto w1 w2 = .ok i := by
  cases i with
  | goto target =>
    cases h
    have heven : target.getLsbD 0 = false := by simpa [Instr.wf] using hwf
    refine ⟨isGoto_append _, ?_⟩
    rw [decodeGoto_append, goto_target_append heven]
  | pwrsav m => cases m <;> cases h
  | _ => cases h

/-- The rows read a word that is NOP's, whose low 16 bits are ignored, or the encoding of what they answer. -/
theorem encode_of_decodeOne {w : PWord} {i : Instr} (h : decodeOne w = .ok i) :
    (i = .nop ∧ matchesRow w 0xFF0000 0x000000 = true) ∨ (i ≠ .nop ∧ encode i = some [w]) := by
  unfold decodeOne at h
  split_ifs at h with hnop hdisi hretfie hret hreset hsleep hidle hbra <;> cases h
  · exact .inl ⟨rfl, hnop⟩
  · exact .inr ⟨nofun, by rw [encode, ← eq_append_of_disi hdisi]⟩
  · exact .inr ⟨nofun, by rw [encode, matchesRow_full.mp hretfie]⟩
  · exact .inr ⟨nofun, by rw [encode, matchesRow_full.mp hret]⟩
  · exact .inr ⟨nofun, by rw [encode, matchesRow_full.mp hreset]⟩
  · exact .inr ⟨nofun, by rw [encode, matchesRow_full.mp hsleep]⟩
  · exact .inr ⟨nofun, by rw [encode, matchesRow_full.mp hidle]⟩
  · exact .inr ⟨nofun, by rw [encode, ← eq_append_of_bra hbra]⟩

theorem encode_of_decodeGoto {w1 w2 : PWord} {i : Instr} (hgoto : isGoto w1 = true) (h : decodeGoto w1 w2 = .ok i) :
    i ≠ .nop ∧ encode i = some [w1, w2] := by
  unfold decodeGoto at h
  split_ifs at h with hrow
  cases h
  refine ⟨nofun, ?_⟩
  have hlo : (w2.extractLsb' 0 7 ++ w1.extractLsb' 1 15 ++ 0#1).extractLsb' 1 15 = w1.extractLsb' 1 15 :=
    extract_middle_append ..
  have hhi : (w2.extractLsb' 0 7 ++ w1.extractLsb' 1 15 ++ 0#1).extractLsb' 16 7 = w2.extractLsb' 0 7 :=
    extract_high_append ..
  rw [encode, hlo, hhi, ← eq_append_of_isGoto hgoto, ← eq_append_of_gotoSecond hrow]

/-! ### The decoder on whole words -/

theorem decode_bytesOfWord {w : PWord} (h : isGoto w = false) (rest : List Byte) :
    decode (bytesOfWord w ++ rest) = (decodeOne w).map (·, rest) := by
  simp only [bytesOfWord, List.cons_append, List.nil_append, decode, wordOfBytes_extract, h, Bool.false_eq_true, if_false]
  cases decodeOne w <;> rfl

theorem decode_goto {w1 w2 : PWord} (h : isGoto w1 = true) (rest : List Byte) :
    decode (bytesOfWord w1 ++ (bytesOfWord w2 ++ rest)) = (decodeGoto w1 w2).map (·, rest) := by
  simp only [bytesOfWord, List.cons_append, List.nil_append, decode, wordOfBytes_extract, h, if_true]
  cases decodeGoto w1 w2 <;> rfl

/-- What the decoder reads is one word that is no GOTO's first, or two of which the first is (R72). -/
theorem decode_cases {bs rest : List Byte} {i : Instr} (h : decode bs = .ok (i, rest)) :
    (∃ w, isGoto w = false ∧ decodeOne w = .ok i ∧ bs = bytesOfWord w ++ rest) ∨
    (∃ w1 w2, isGoto w1 = true ∧ decodeGoto w1 w2 = .ok i ∧ bs = bytesOfWord w1 ++ (bytesOfWord w2 ++ rest)) := by
  unfold decode at h
  split at h
  next b0 b1 b2 tail =>
    split at h
    next hgoto =>
      split at h
      next c0 c1 c2 rest' =>
        split at h <;> cases h
        exact .inr ⟨_, _, hgoto, ‹_›, by simp [bytesOfWord_wordOfBytes]⟩
      · cases h
    next hgoto =>
      split at h <;> cases h
      exact .inl ⟨_, Bool.eq_false_iff.mpr hgoto, ‹_›, by simp [bytesOfWord_wordOfBytes]⟩
  · cases h

/-- The bytes of a NOP: its low 16 bits, whatever they are, under a 0 (R72). -/
theorem bytesOfWord_nop {w : PWord} (h : matchesRow w 0xFF0000 0x000000 = true) :
    bytesOfWord w = [w.extractLsb' 0 8, w.extractLsb' 8 8, 0x00#8] := by
  have hw : w = 0x00#8 ++ w.extractLsb' 0 16 := eq_append_of_and_high (n := 16) (hi := 0x00#8) (matchesRow_iff.mp h)
  have hhigh : w.extractLsb' 16 8 = 0x00#8 := by
    rw [hw]
    exact BitVec.extractLsb'_append_eq_left
  rw [bytesOfWord, hhigh]

/-- An instruction with an encoding has one word or two. -/
theorem encode_length {i : Instr} {ws : List PWord} (h : encode i = some ws) : (∃ w, ws = [w]) ∨ ∃ w1 w2, ws = [w1, w2] := by
  cases i with
  | pwrsav m => cases m <;> cases h <;> exact .inl ⟨_, rfl⟩
  | goto target => cases h; exact .inr ⟨_, _, rfl⟩
  | nop | disi | retfie | ret | reset | bra => cases h; exact .inl ⟨_, rfl⟩
  | _ => cases h

end Sys2Proof

namespace Sys2Proof.Proofs

open Sys2Proof Sys2Proof.Machine

/-- Settles O1: the rows of the table have no word in common, so that the one that reads a word is the
one that the instruction was encoded by. -/
theorem decodeOfEncodeIsSame : Obligations.DecodeOfEncodeIsSame := by
  intro i bs rest hwf henc
  obtain ⟨ws, hws, rfl⟩ := Option.map_eq_some_iff.mp henc
  rcases encode_length hws with ⟨w, rfl⟩ | ⟨w1, w2, rfl⟩
  · obtain ⟨hgoto, hdecode⟩ := decodeOne_of_encode hws
    rw [List.flatMap_singleton, decode_bytesOfWord hgoto, hdecode, Except.map]
  · obtain ⟨hgoto, hdecode⟩ := decodeGoto_of_encode hwf hws
    rw [List.flatMap_cons, List.flatMap_singleton, List.append_assoc, decode_goto hgoto, hdecode, Except.map]

/-- Settles O2: each row that answers fixes every bit of its word but the operands it reads out, and NOP's row reads none. -/
theorem encodeOfDecodeIsSame : Obligations.EncodeOfDecodeIsSame := by
  intro bs rest i h
  refine ⟨decode_wf h, ?_⟩
  rcases decode_cases h with ⟨w, -, hdecode, rfl⟩ | ⟨w1, w2, hgoto, hdecode, rfl⟩
  · rcases encode_of_decodeOne hdecode with ⟨hnop, hrow⟩ | ⟨hnop, henc⟩
    · refine .inl ⟨hnop, w.extractLsb' 0 8, w.extractLsb' 8 8, ?_⟩
      rw [bytesOfWord_nop hrow]
      rfl
    · refine .inr ⟨hnop, bytesOfWord w, ?_, rfl⟩
      rw [encodeBytes, henc, Option.map_some, List.flatMap_singleton]
  · obtain ⟨hnop, henc⟩ := encode_of_decodeGoto hgoto hdecode
    refine .inr ⟨hnop, bytesOfWord w1 ++ bytesOfWord w2, ?_, (List.append_assoc ..).symm⟩
    rw [encodeBytes, henc, Option.map_some, List.flatMap_cons, List.flatMap_singleton]

/-- Settles O3: each word evaluated through the table. -/
theorem knownWordsDecode : Obligations.KnownWordsDecode :=
  ⟨rfl, rfl, rfl, rfl, rfl, rfl, rfl, rfl, rfl, rfl, rfl, rfl⟩

end Sys2Proof.Proofs
end

section
/-! SUPPORT. A fetch that is refused stops the step (O4), and the forms of modelled instructions that are refused (O48). -/

namespace Sys2Proof

/-- A word that no row of the table matches is refused with that word (R74). -/
theorem decodeOne_of_noRule {w : PWord} (hnop : w &&& 0xFF0000 ≠ 0x000000) (hdisi : w &&& 0xFFC000 ≠ 0xFC0000)
    (hretfie : w ≠ 0x064000) (hret : w ≠ 0x060000) (hreset : w ≠ 0xFE0000) (hsleep : w ≠ 0xFE4000) (hidle : w ≠ 0xFE4001)
    (hbra : w &&& 0xFF0000 ≠ 0x370000) : decodeOne w = .error (.noRule w) := by
  simp only [decodeOne, matchesRow_iff, and_full_mask, hnop, hdisi, hretfie, hret, hreset, hsleep, hidle, hbra, if_false]

/-- The second word of a GOTO with one of bits 23 to 7 set is refused with that word (R72, R74). -/
theorem decodeGoto_of_badSecond {w1 w2 : PWord} (h : w2 &&& 0xFFFF80 ≠ 0) : decodeGoto w1 w2 = .error (.gotoSecondWord w2) := by
  rw [decodeGoto, if_neg fun hrow => h (matchesRow_iff.mp hrow)]

end Sys2Proof

namespace Sys2Proof.Machine

open Sys2Proof

/-! ### A refused fetch -/

/-- Where the decoder refuses the words at an even address with no unencoded instruction, so does the fetch (R74). -/
theorem State.fetch_of_decode_error {s : State} {e : DecodeError} (he : s.pc.getLsbD 0 = false)
    (hs : s.symbolicAt s.pc = none) (hd : decode s.fetchBytes = .error e) : s.fetch = .refused (refusalOf e) := by
  simp only [State.fetch, he, hs, hd, Bool.false_eq_true, if_false]

/-- A step of a CPU that is ready to run is refused where its fetch is. -/
theorem step_of_fetch_refused {s : State} {r : Refusal} (hr : s.readyToRun) (hf : s.fetch = .refused r) :
    step s = .refused r := by
  obtain ⟨hmode, hwinner, hprog, -⟩ := hr
  have hrun : s.readied.runInstr = .refused r := by
    simp only [State.runInstr, State.readied_dev, State.readied_pc, State.readied_fetch, hprog, hf, if_true]
  simp only [step, State.cpuStep_of_quiet hmode hwinner, hrun, andThen]

/-- The bytes fetched are those of the two words at the program counter, the first word's first. -/
theorem State.decode_fetchBytes_of_one {s : State} (h : isGoto (s.progWord s.pc) = false) :
    decode s.fetchBytes = (decodeOne (s.progWord s.pc)).map (·, bytesOfWord (s.progWord (s.pc + 2))) :=
  decode_bytesOfWord h _

theorem State.decode_fetchBytes_of_goto {s : State} (h : isGoto (s.progWord s.pc) = true) :
    decode s.fetchBytes = (decodeGoto (s.progWord s.pc) (s.progWord (s.pc + 2))).map (·, []) := by
  rw [State.fetchBytes, ← decode_goto h, List.append_nil]

/-! ### Refused forms -/

theorem exec_sftac_noDsp {s : State} (h : s.dev.hasDsp = false) (acc : AccSel) (amount : ShiftAmount) :
    exec (.sftac acc amount) s = .refused .noDspEngine := by
  rw [exec, execSftac, h, Bool.not_false, if_pos rfl]

theorem exec_doLoop_noDsp {s : State} (h : s.dev.hasDsp = false) (count : Word) (stop : PAddr) :
    exec (.doLoop count stop) s = .refused .noDspEngine := by
  rw [exec, execDoLoop, h, Bool.not_false, if_pos rfl]

theorem exec_macClass_noDsp {s : State} (h : s.dev.hasDsp = false) (acc : AccSel) (x y : WReg) (dsts : List WReg) :
    exec (.macClass acc x y dsts) s = .refused .noDspEngine := by
  rw [exec, execMacClass, h, Bool.not_false, if_pos rfl]

section
variable {s : State} {w : WReg}

/-- A double word stored to an even address of a page other than 0 raises no address error, and its target is unknown (N43). -/
theorem exec_movD_paged_refused (hpage : s.dswpag ≠ 0) (heven : (s.readW w).getLsbD 0 = false) (p : Fin 8) :
    exec (.movD (.pair p) (.paged w)) s = .refused .pagedWrite := by
  have hgood : s.fresh.dwBad (.paged w) s.fresh.dswpag = false :=
    Bool.or_eq_false_iff.mpr ⟨beq_false_of_ne hpage, heven⟩
  have hpair : s.fresh.dwBad (.pair p) s.fresh.dsrpag = false := rfl
  simp only [exec, execMovD, hgood, hpair, Bool.or_false, Bool.false_and, Bool.false_eq_true, if_false, State.dwStore, andThen]

/-- So is a bit written to an even address where neither page is 0 (N43). -/
theorem exec_bitManip_paged_refused (hread : s.dsrpag ≠ 0) (hwrite : s.dswpag ≠ 0) (heven : (s.readW w).getLsbD 0 = false)
    (size : Size) (bit : Fin 16) : exec (.bitManip size bit (.paged w)) s = .refused .pagedWrite := by
  have heven' : s.fresh.oddIndirect (.paged w) = false := heven
  simp only [exec, execBitManip, heven', Bool.false_eq_true, if_false]
  exact if_neg (not_or.mpr ⟨hread, hwrite⟩)

end

end Sys2Proof.Machine

namespace Sys2Proof.Proofs

open Sys2Proof Sys2Proof.Machine

/-- Settles O4: the decoder's refusal is the fetch's, and the fetch's is the step's. -/
theorem unknownWordIsRefused : Obligations.UnknownWordIsRefused := by
  rintro s w hready hnone rfl
  have ⟨_, _, _, heven⟩ := hready
  have hrefused {e : DecodeError} (hd : decode s.fetchBytes = .error e) : step s = .refused (refusalOf e) :=
    step_of_fetch_refused hready (State.fetch_of_decode_error heven hnone hd)
  refine ⟨fun hnop hdisi hretfie hret hreset hpwrsav hgoto hbra => ?_, fun hgoto hsecond => ?_⟩
  · have hsleep : s.progWord s.pc ≠ 0xFE4000 := fun h => hpwrsav (by rw [h]; rfl)
    have hidle : s.progWord s.pc ≠ 0xFE4001 := fun h => hpwrsav (by rw [h]; rfl)
    refine hrefused (e := .noRule _) ?_
    rw [State.decode_fetchBytes_of_one (matchesRow_eq_false hgoto),
      decodeOne_of_noRule hnop hdisi hretfie hret hreset hsleep hidle hbra, Except.map]
  · refine hrefused (e := .gotoSecondWord _) ?_
    rw [State.decode_fetchBytes_of_goto (matchesRow_iff.mpr hgoto), decodeGoto_of_badSecond hsecond, Except.map]

/-- Settles O48: each form is refused after the checks that would make it an address error, none of which applies. -/
theorem formsRefusedByName : Obligations.FormsRefusedByName := fun _ =>
  ⟨fun hdsp => ⟨exec_sftac_noDsp hdsp, exec_doLoop_noDsp hdsp, exec_macClass_noDsp hdsp⟩,
    fun hwrite _ heven => ⟨exec_movD_paged_refused hwrite heven,
      fun hread => exec_bitManip_paged_refused hread hwrite heven⟩⟩

end Sys2Proof.Proofs
end

section
/-! SUPPORT. NOP, PWRSAV, RESET and DISI (R80, R82 to R84), the count of DISICNT, and software writes of DISICNT, SPLIM, RCON, OSCCON
and the page registers (R28, R80, R98, R181). -/

namespace Sys2Proof.Machine

open Sys2Proof

/-! ### Bits -/

/-- A bit set outside a mask leaves what the mask selects. -/
theorem setBit_and_of_unselected {v m : Word} {i : Nat} {b : Bool} (h : m.getLsbD i = false) : setBit v i b &&& m = v &&& m := by
  apply BitVec.eq_of_getLsbD_eq
  intro j hj
  simp only [BitVec.getLsbD_and, getLsbD_setBit]
  by_cases hji : j = i
  · rw [hji, h, Bool.and_false, Bool.and_false]
  · rw [if_neg fun hj => hji hj.1]

/-- A merge of bits within a mask leaves the others. -/
theorem mergeBits_and_not_of_within {v new m mask : Word} (h : m &&& ~~~mask = 0) :
    mergeBits v new m &&& ~~~mask = v &&& ~~~mask := by
  apply BitVec.eq_of_getLsbD_eq
  intro j hj
  have hbit := congrArg (·.getLsbD j) h
  simp only [BitVec.getLsbD_and, getLsbD_mergeBits, BitVec.getLsbD_not, hj] at hbit ⊢
  cases hm : m.getLsbD j
  · rfl
  · rw [hm] at hbit
    rw [show (!mask.getLsbD j) = false by simpa using hbit]
    simp

/-- A merge is a software write of a register that is R/W throughout (R98). -/
theorem bitsWritten_mergeBits (old mask value : Word) : bitsWritten old (mergeBits old value mask) mask value 0xFFFF 0 := by
  intro i hi
  have hall : ∀ i < 16, (0xFFFF : Word).getLsbD i = true := by decide
  rw [getLsbD_mergeBits, hall i hi, show (0 : Word).getLsbD i = false from BitVec.getLsbD_zero]
  simp

/-- A merge of all bits is the new word. -/
theorem mergeBits_whole (old new : Word) : mergeBits old new 0xFFFF = new := by
  have hall := mergeBits_and_mask old new 0xFFFF
  rwa [show (0xFFFF : Word) = BitVec.allOnes 16 by decide, BitVec.and_allOnes, BitVec.and_allOnes] at hall

/-! ### Device reset -/

/-- Every device reset is one in the sense of Safety.lean, whatever its cause (R180). -/
theorem State.resetTo_deviceReset (c : ResetCause) (s : State) : s.resetTo (s.deviceReset c) := by
  refine ⟨rfl, rfl, rfl, rfl, rfl, rfl, rfl, rfl, fun k => ⟨?_, ?_⟩, fun k => ?_, rfl, rfl, rfl, rfl, rfl, rfl, rfl, rfl,
    ⟨rfl, rfl, rfl⟩, rfl, rfl, rfl⟩ <;> simp

/-- With GIE set by the reset no delay matters (R106). -/
theorem State.giePipe_deviceReset (c : ResetCause) (s : State) : (s.deviceReset c).giePipe = true := by
  rw [State.giePipe, State.gie, State.deviceReset_intcon2]
  rfl

/-- RESET does not set TRAPR (R82). -/
theorem State.trapr_of_software_reset {s : State} (h : (s.deviceReset .software).rcon.getLsbD 15 = true) :
    s.rcon.getLsbD 15 = true := by
  simp only [State.deviceReset, getLsbD_setBit] at h
  exact (Bool.and_eq_true_iff.mp h).1

/-! ### The count of DISICNT -/

/-- DISICNT takes a count, and a count of 0 ends the disable (R80). -/
def State.countTo (c : BitVec 14) (s : State) : State :=
  { s with disicnt := c, intcon2 := if c = 0 then setBit s.intcon2 14 false else s.intcon2 }

theorem State.disi_countTo {s : State} (h : s.disi = true) (c : BitVec 14) : (s.countTo c).disi = true ↔ c ≠ 0 := by
  by_cases hc : c = 0
  · simp [State.countTo, State.disi, hc]
  · have hstays : (s.countTo c).intcon2 = s.intcon2 := if_neg hc
    exact iff_of_true ((congrArg (·.getLsbD 14) hstays).trans h) hc

/-- The disable is one bit of INTCON2. -/
theorem State.intcon2_countTo (s : State) (c : BitVec 14) : (s.countTo c).intcon2 &&& 0xBFFF = s.intcon2 &&& 0xBFFF := by
  unfold State.countTo
  dsimp only
  split
  · exact setBit_and_of_unselected (by decide)
  · rfl

theorem State.tickDisi_of_disabled {s : State} (h : s.disi = false) : s.tickDisi = s := by
  rw [State.tickDisi, h, Bool.false_and]
  rfl

theorem State.tickDisi_of_loaded {s : State} (h : s.log.disiLoad = true) : s.tickDisi = s := by
  rw [State.tickDisi, h, Bool.not_true, Bool.and_false]
  rfl

/-- A step that did not load DISICNT counts its cycles, at least one (R80, D10). -/
theorem State.tickDisi_counts {s : State} (h : s.disi = true) (hl : s.log.disiLoad = false) :
    ∃ c n, 1 ≤ c ∧ n.toNat = s.disicnt.toNat - c ∧ s.tickDisi = (s.countTo n).draw := by
  have hlt : s.disicnt.toNat - (1 + Config.extraCycles s.free) < 2 ^ 14 :=
    Nat.lt_of_le_of_lt (Nat.sub_le _ _) s.disicnt.isLt
  have hn := (BitVec.toNat_ofNat _ 14).trans (Nat.mod_eq_of_lt hlt)
  refine ⟨_, _, Nat.le_add_right 1 _, hn, ?_⟩
  have hzero : BitVec.ofNat 14 (s.disicnt.toNat - (1 + Config.extraCycles s.free)) = 0 ↔
      s.disicnt.toNat - (1 + Config.extraCycles s.free) = 0 := by
    rw [BitVec.toNat_eq, hn]
    rfl
  simp only [State.tickDisi, h, hl, Bool.not_false, Bool.and_self, if_true, State.countTo, hzero]
  rfl

/-! ### Writes of DISICNT, RCON -/

/-- The count that a software write leaves (R80 (c)). -/
def State.disicntAfter (mask value : Word) (s : State) : BitVec 14 :=
  (writeBits (s.disicnt.zeroExtend 16) mask value 0x3FFF 0).extractLsb' 0 14

theorem State.getLsbD_disicntAfter (s : State) (mask value : Word) {i : Nat} (hi : i < 14) :
    (s.disicntAfter mask value).getLsbD i = if mask.getLsbD i then value.getLsbD i else s.disicnt.getLsbD i := by
  have hfield : ∀ i < 14, (0x3FFF#16).getLsbD i = true := by decide
  have hi16 : i < 16 := by omega
  simp [State.disicntAfter, hfield i hi, hi, hi16]

/-- A write that selects no bit of the count does nothing. -/
theorem State.writeDisicnt_of_unselected {mask : Word} (h : mask &&& 0x3FFF = 0) (value : Word) (s : State) :
    s.writeDisicnt mask value = s := if_pos h

/-- While DISI = 1 a write sets the count (R80 (c)). -/
theorem State.writeDisicnt_of_disi {s : State} {mask : Word} (h : s.disi = true) (hm : mask &&& 0x3FFF ≠ 0) (value : Word) :
    s.writeDisicnt mask value = { s.countTo (s.disicntAfter mask value) with log := { s.log with disiLoad := true } } := by
  rw [State.writeDisicnt, if_neg hm, if_pos h]
  rfl

/-- While DISI = 0 the count is free and nothing else changes (R80 (d)). -/
theorem State.writeDisicnt_of_not_disi {s : State} {mask : Word} (h : s.disi = false) (hm : mask &&& 0x3FFF ≠ 0) (value : Word) :
    s.writeDisicnt mask value = { s with disicnt := (Config.freeWord s.free).extractLsb' 0 14, free := s.free + 1 } := by
  rw [State.writeDisicnt, if_neg hm, h]
  rfl

/-- A step that loaded DISICNT or not, and has detected nothing. -/
theorem State.logIs_disiLoad {t : State} {b : Bool} {P : Prop} (h : t.log = { disiLoad := b }) (hb : b = true ↔ P) :
    t.logIs False False False P := by
  refine State.logIs_of_no_stack ?_ (not_logged ?_) (not_logged ?_) (not_logged ?_) ?_ <;> rw [h]
  exact hb

theorem State.trapr_writeRcon (s : State) (mask value : Word) :
    (s.writeRcon mask value).trapr = if mask.getLsbD 15 then value.getLsbD 15 else s.trapr := by
  simp [State.trapr, State.writeRcon]

/-- Of RCON a write changes selected bits only (R98). -/
theorem State.rcon_writeRcon (s : State) (mask value : Word) :
    (s.writeRcon mask value).rcon &&& ~~~mask = s.rcon &&& ~~~mask := by
  have hwithin (f : Word) : (mask &&& f) &&& ~~~mask = 0 := by
    rw [BitVec.and_comm mask, BitVec.and_assoc, BitVec.and_not_self]
    exact BitVec.and_zero
  exact (mergeBits_and_not_of_within (hwithin _)).trans (mergeBits_and_not_of_within (hwithin _))

end Sys2Proof.Machine

namespace Sys2Proof.Proofs

open Sys2Proof Sys2Proof.Machine

/-- Settles O27. -/
theorem nopAndPwrsavResult : Obligations.NopAndPwrsavResult := fun _ => ⟨rfl, rfl, rfl⟩

/-- Settles O29. -/
theorem resetResult : Obligations.ResetResult := fun s =>
  ⟨_, rfl, s.resetTo_deviceReset .software, s.giePipe_deviceReset .software, State.trapr_of_software_reset⟩

/-- Settles O28: the end of a step and a write of DISICNT alike end the disable by `State.countTo`. -/
theorem disiLoadsAndCountsDown : Obligations.DisiLoadsAndCountsDown := by
  intro s
  refine ⟨fun lit14 => ⟨_, rfl, rfl, rfl, ?_, setBit_and_of_unselected (by decide), rfl, rfl⟩, State.tickDisi_of_disabled,
    State.tickDisi_of_loaded, fun hdisi hload => ?_⟩
  · simp
  · obtain ⟨c, n, hc, hn, htick⟩ := State.tickDisi_counts hdisi hload
    rw [htick]
    exact ⟨⟨c, hc, hn⟩, State.disi_countTo hdisi n, s.intcon2_countTo n, rfl⟩

/-- The part of O53 on DISICNT. -/
theorem sfrWriteDisicnt (s : State) (mask value : Word) :
    ∃ t, exec (.sfrWrite .disicnt mask value) s = .next t ∧
      (s.intcon2.getLsbD 14 = false → t.intcon2 = s.intcon2) ∧
      (s.intcon2.getLsbD 14 = true → mask &&& 0x3FFF ≠ 0 →
        (∀ i, i < 14 → t.disicnt.getLsbD i = if mask.getLsbD i then value.getLsbD i else s.disicnt.getLsbD i) ∧
        (t.intcon2.getLsbD 14 = true ↔ t.disicnt ≠ 0) ∧ t.intcon2 &&& 0xBFFF = s.intcon2 &&& 0xBFFF) ∧
      (mask &&& 0x3FFF = 0 → t.disicnt = s.disicnt ∧ t.intcon2 = s.intcon2) ∧
      t.logIs False False False (s.intcon2.getLsbD 14 = true ∧ mask &&& 0x3FFF ≠ 0) ∧
      t = { s with
        pc := s.pc + 2, disicnt := t.disicnt, intcon2 := t.intcon2, free := t.free, log := t.log } := by
  by_cases hm : mask &&& 0x3FFF = 0
  · have hwrite : s.fresh.writeSfr .disicnt mask value = .next s.fresh :=
      congrArg Host.Outcome.next (State.writeDisicnt_of_unselected hm value s.fresh)
    refine ⟨_, exec_sfrWrite_quiet hwrite rfl, fun _ => rfl, fun _ h => absurd hm h, fun _ => ⟨rfl, rfl⟩, ?_, rfl⟩
    exact State.logIs_disiLoad rfl (iff_of_false Bool.false_ne_true fun h => h.2 hm)
  · cases hd : s.disi
    · have hd' : s.intcon2.getLsbD 14 = false := hd
      have hwrite : s.fresh.writeSfr .disicnt mask value = .next _ :=
        congrArg Host.Outcome.next (State.writeDisicnt_of_not_disi (s := s.fresh) hd hm value)
      refine ⟨_, exec_sfrWrite_quiet hwrite rfl, fun _ => rfl, fun h => absurd (hd'.symm.trans h) Bool.false_ne_true,
        fun h => absurd h hm, ?_, rfl⟩
      exact State.logIs_disiLoad rfl (iff_of_false Bool.false_ne_true fun h => Bool.false_ne_true (hd'.symm.trans h.1))
    · have hd' : s.intcon2.getLsbD 14 = true := hd
      have hwrite : s.fresh.writeSfr .disicnt mask value = .next _ :=
        congrArg Host.Outcome.next (State.writeDisicnt_of_disi (s := s.fresh) hd hm value)
      refine ⟨_, exec_sfrWrite_calm hwrite ?_ ?_, fun h => absurd (hd'.symm.trans h).symm Bool.false_ne_true,
        fun _ _ => ⟨fun i hi => State.getLsbD_disicntAfter s.fresh mask value hi, State.disi_countTo (s := s.fresh) hd _,
          State.intcon2_countTo s.fresh _⟩, fun h => absurd h hm, ?_, rfl⟩
      · exact ⟨by simp [StepLog.intcon1Bits], nofun⟩
      · exact State.hardConflict_of_quiet rfl rfl rfl
      · exact State.logIs_disiLoad rfl (iff_of_true rfl ⟨hd', hm⟩)

/-- Settles O53: of the writes only that of DISICNT while DISI = 1 is logged. -/
theorem sfrWriteCountersAndOthers : Obligations.SfrWriteCountersAndOthers := by
  intro s mask value
  refine ⟨sfrWriteDisicnt s mask value, ?_, ?_, ?_, ?_, ?_⟩
  · refine ⟨_, exec_sfrWrite_quiet rfl rfl, fun hword => ⟨?_, ?_⟩, bitsWritten_mergeBits s.splim mask value, ?_,
      State.quiet_of_log rfl, rfl⟩
    · exact hword ▸ mergeBits_whole s.splim value
    · simp [State.writeSplim, hword]
    · simp [State.writeSplim]
  · exact ⟨_, exec_sfrWrite_quiet rfl rfl, s.fresh.trapr_writeRcon mask value, s.fresh.rcon_writeRcon mask value,
      State.quiet_of_log rfl, rfl⟩
  · exact ⟨_, exec_sfrWrite_quiet rfl rfl, mergeBits_and_not_mask s.osccon _ mask, State.quiet_of_log rfl, rfl⟩
  · exact ⟨_, exec_sfrWrite_quiet rfl rfl, bitsWritten_mergeBits s.dsrpag mask value, State.quiet_of_log rfl, rfl⟩
  · exact ⟨_, exec_sfrWrite_quiet rfl rfl, bitsWritten_mergeBits s.dswpag mask value, State.quiet_of_log rfl, rfl⟩

end Sys2Proof.Proofs
end

section
/-! SUPPORT. RETFIE and RETURN: what the two pops of a frame detect and read, and the state that a return goes on with or that a
conflict resets (R60, R81, R91, R127, R133). -/

namespace Sys2Proof.Machine

open Sys2Proof

/-! ### Two pops -/

/-- W15 down by one word, with a draw where the word there cannot be read (R53, R60). -/
def State.popped (s : State) : State :=
  { s with w15 := s.w15 - 2, free := if s.badAccess .word (s.w15 - 2) then s.free + 1 else s.free }

/-- One of the two words of the frame below W15 cannot be read. -/
def State.frameBad (s : State) : Bool := s.badAccess .word (s.w15 - 2) || s.badAccess .word (s.w15 - 4)

/-- A stack check of a return fails: the overflow check of a pop, or the underflow check of the W15 that they leave (R99, R133). -/
def State.frameStk (s : State) : Bool :=
  s.pastLimit (s.w15 - 2) || s.pastLimit (s.w15 - 4) || decide (s.w15 - 4 < 0x1000)

theorem State.frameStk_iff {s : State} :
    s.frameStk = true ↔ s.overLimit (s.w15 - 2) ∨ s.overLimit (s.w15 - 4) ∨ s.w15 - 4 < 0x1000 := by
  rw [State.frameStk, Bool.or_eq_true, Bool.or_eq_true, State.pastLimit_iff, State.pastLimit_iff, decide_eq_true_eq, or_assoc]

theorem State.frameBad_of_poppable {s : State} (h : s.framePoppable) : s.frameBad = false :=
  Bool.or_eq_false_iff.mpr ⟨h.1.1, h.2.1⟩

theorem sub_two_sub_two (a : Word) : a - 2 - 2 = a - 4 := by bv_omega

theorem State.popped_popped_w15 (s : State) : s.popped.popped.w15 = s.w15 - 4 := sub_two_sub_two s.w15

/-- Over a frame that can be popped neither pop draws. -/
theorem State.free_popped_popped {s : State} (h : s.framePoppable) : s.popped.popped.free = s.free := by
  obtain ⟨⟨hfirst, _⟩, hsecond, _⟩ := h
  have hsecond' : s.badAccess .word (s.popped.w15 - 2) = false := (sub_two_sub_two s.w15).symm ▸ hsecond
  exact (if_neg (Bool.eq_false_iff.mp hsecond')).trans (if_neg (Bool.eq_false_iff.mp hfirst))

theorem State.pop16_popped (s : State) :
    s.pop16 = s.popped.detected (s.badAccess .word (s.w15 - 2)) (s.pastLimit (s.w15 - 2)) := by
  rw [State.pop16_detected, State.popped]
  cases s.badAccess .word (s.w15 - 2) <;> rfl

theorem State.detected_popped (s : State) (a k : Bool) : (s.detected a k).popped = s.popped.detected a k := rfl

/-- Two pops detect what either detects. -/
theorem State.pop16_pop16 (s : State) :
    s.pop16.pop16 = s.popped.popped.detected s.frameBad (s.pastLimit (s.w15 - 2) || s.pastLimit (s.w15 - 4)) := by
  rw [State.pop16_popped (State.pop16 s), State.pop16_popped s, State.detected_popped, State.detected_detected,
    State.detected_badAccess, State.detected_pastLimit, State.detected_w15,
    show s.popped.w15 - 2 = s.w15 - 4 from sub_two_sub_two s.w15]
  rfl

/-! ### The words popped -/

/-- Of what software reads, INTCON1 alone shows the errors that a step has detected. -/
theorem State.loadWord_detected {s : State} {a k : Bool} {ea : Word} (h : s.dev.sfrAt ea ≠ some .intcon1) :
    (s.detected a k).loadWord ea = s.loadWord ea := by
  have hdev : (s.detected a k).dev = s.dev := rfl
  unfold State.loadWord
  rw [hdev]
  cases hr : s.dev.sfrAt ea with
  | none => rfl
  | some r =>
    cases r with
    | intcon1 => exact absurd hr h
    | _ => rfl

theorem State.loadWord_of_ram {s : State} {a : Word} (h : s.ramWordAt a) : s.loadWord a = s.ramWord a := by
  rw [State.loadWord, h.2]

/-- The word that the first pop of a return reads, frame word 1. -/
theorem State.first_popValue {s : State} (h : s.badAccess .word (s.w15 - 2) = false) :
    s.fresh.popValue = s.loadWord (s.w15 - 2) := (State.pop16_good (s := s.fresh) h).2

/-- The word that the second pop of a return reads, frame word 0. -/
theorem State.second_popValue {s : State} (h : s.badAccess .word (s.w15 - 4) = false)
    (hr : s.dev.sfrAt (s.w15 - 4) ≠ some .intcon1) : s.fresh.pop16.popValue = s.loadWord (s.w15 - 4) := by
  have hw15 : s.fresh.pop16.w15 - 2 = s.w15 - 4 := by
    rw [State.pop16_popped]
    exact sub_two_sub_two s.w15
  have hgood : s.fresh.pop16.badAccess .word (s.fresh.pop16.w15 - 2) = false := by
    rw [hw15, State.badAccess_congr (s := s) (by simp)]
    exact h
  rw [(State.pop16_good hgood).2, hw15, State.pop16_popped, State.loadWord_detected (s := s.fresh.popped) hr]
  rfl

/-! ### What the two words restore -/

theorem extractLsb'_framePc_high (w0 w1 : Word) : (framePc w0 w1).extractLsb' 16 7 = w1.extractLsb' 0 7 := by
  apply BitVec.eq_of_getLsbD_eq
  intro i hi
  simp only [framePc, BitVec.getLsbD_extractLsb', BitVec.getLsbD_append, hi]
  interval_cases i <;> rfl

theorem extractLsb'_framePc_low (w0 w1 : Word) : (framePc w0 w1).extractLsb' 1 15 = w0.extractLsb' 1 15 := by
  apply BitVec.eq_of_getLsbD_eq
  intro i hi
  simp only [framePc, BitVec.getLsbD_extractLsb', BitVec.getLsbD_append, hi]
  interval_cases i <;> rfl

theorem framePc_below (w0 w1 : Word) : (framePc w0 w1).getLsbD 23 = false := by
  simp only [framePc, BitVec.getLsbD_append]
  rfl

/-- SRL comes from frame word 1, SRH stays (R81). -/
theorem restored_sr (sr w1 : Word) : mergeBits sr (w1 >>> 8) 0x00FF = sr.extractLsb' 8 8 ++ w1.extractLsb' 8 8 := by
  have hlow : ∀ i < 16, (0x00FF : Word).getLsbD i = decide (i < 8) := by decide
  apply BitVec.eq_of_getLsbD_eq
  intro i hi
  rw [getLsbD_mergeBits, hlow i hi, BitVec.getLsbD_append]
  by_cases h : i < 8
  · simp [h]
  · have hsum : 8 + (i - 8) = i := by omega
    have hsub : i - 8 < 8 := by omega
    simp [h, hsum, hsub]

theorem State.restoreCtx_of_noAltW {s : State} (h : s.dev.hasAltW = false) : s.restoreCtx = s := by
  rw [State.restoreCtx, h]
  rfl

theorem State.restoreCtx_of_nil {s : State} (h : s.ctxStack = []) : s.restoreCtx = s := by
  rw [State.restoreCtx, h]
  split <;> rfl

theorem State.restoreCtx_of_cons {s : State} {c : Ctx} {cs : List Ctx} (h : s.dev.hasAltW = true) (hs : s.ctxStack = c :: cs) :
    s.restoreCtx = { s with activeCtx := c, ctxStack := cs } := by
  rw [State.restoreCtx, if_pos h, hs]

theorem State.detected_restoreCtx (s : State) (a k : Bool) : (s.detected a k).restoreCtx = s.restoreCtx.detected a k := by
  cases h : s.dev.hasAltW
  · rw [State.restoreCtx_of_noAltW h, State.restoreCtx_of_noAltW (s := s.detected a k) h]
  · cases hs : s.ctxStack with
    | nil => rw [State.restoreCtx_of_nil hs, State.restoreCtx_of_nil (s := s.detected a k) hs]
    | cons c cs =>
      rw [State.restoreCtx_of_cons h hs, State.restoreCtx_of_cons (s := s.detected a k) h hs]
      rfl

theorem State.detected_unstack (s : State) (a k : Bool) (w0 w1 : Word) :
    (s.detected a k).unstack w0 w1 = (s.unstack w0 w1).detected a k := rfl

/-- The set that the last entry stacked is in use again, whatever else a return restores (R81, R119). -/
theorem State.restoresCtx_restoreCtx {s x : State} (hdev : x.dev = s.dev) (hctx : x.activeCtx = s.activeCtx)
    (hstack : x.ctxStack = s.ctxStack) : s.restoresCtx x.restoreCtx := by
  rw [State.restoresCtx, ← hdev, ← hctx, ← hstack]
  cases h : x.dev.hasAltW
  · rw [State.restoreCtx_of_noAltW h]
    exact ⟨nofun, fun _ => ⟨rfl, rfl⟩⟩
  · cases hs : x.ctxStack with
    | nil =>
      rw [State.restoreCtx_of_nil hs]
      exact ⟨nofun, fun _ => ⟨rfl, hs⟩⟩
    | cons c cs =>
      rw [State.restoreCtx_of_cons h hs]
      refine ⟨fun _ c' cs' h => ?_, nofun⟩
      cases h
      exact ⟨rfl, rfl⟩

/-! ### The two returns -/

/-- State `x` is what return `i` makes of `s` with the frame words `w0` and `w1`, its address and stack errors apart (R81, R91). -/
structure State.Returned (s : State) (i : Instr) (w0 w1 : Word) (x : State) : Prop where
  pc : x.pc = framePc w0 w1
  w15 : x.w15 = s.w15 - 4
  corcon : x.corcon &&& 0xFFF3 = s.corcon &&& 0xFFF3
  retfie : i = .retfie → x.sr = s.sr.extractLsb' 8 8 ++ w1.extractLsb' 8 8 ∧ x.corcon.getLsbD 3 = w1.getLsbD 7 ∧
    x.corcon.getLsbD 2 = w0.getLsbD 0
  ctx : i = .retfie → s.restoresCtx x
  drawn : i = .retfie → x.free = s.popped.popped.free
  ret : i = .ret → x.sr = s.sr ∧ x.corcon.getLsbD 3 = s.corcon.getLsbD 3 ∧ x.activeCtx = s.activeCtx ∧
    x.ctxStack = s.ctxStack
  shape : ∃ pc w15 sr corcon activeCtx ctxStack free, x = { s with
    pc := pc, w15 := w15, sr := sr, corcon := corcon, activeCtx := activeCtx, ctxStack := ctxStack, free := free
    log := {} }

section
variable {s x : State} {i : Instr} {w0 w1 : Word}

theorem State.returned_retfie (s : State) (w0 w1 : Word) :
    s.Returned .retfie w0 w1 (s.fresh.popped.popped.unstack w0 w1).restoreCtx where
  pc := by rw [State.restoreCtx_pc]; rfl
  w15 := by
    rw [State.restoreCtx_w15]
    exact s.popped_popped_w15
  corcon := by
    rw [State.restoreCtx_corcon]
    exact (setBit_and_of_unselected (by decide)).trans (setBit_and_of_unselected (by decide))
  retfie _ := by
    rw [State.restoreCtx_sr, State.restoreCtx_corcon]
    exact ⟨restored_sr s.sr w1, by simp [State.unstack], by simp [State.unstack]⟩
  ctx _ := State.restoresCtx_restoreCtx rfl rfl rfl
  drawn _ := by rw [State.restoreCtx_free]; rfl
  ret := nofun
  shape := ⟨_, _, _, _, _, _, _, State.restoreCtx_frame _⟩

theorem State.returned_ret (s : State) (w0 w1 : Word) (b : Bool) (n : Nat) : s.Returned .ret w0 w1
    { s.fresh.popped.popped with corcon := setBit s.corcon 2 b, pc := framePc w0 w1, free := n } where
  pc := rfl
  w15 := s.popped_popped_w15
  corcon := setBit_and_of_unselected (by decide)
  retfie := nofun
  ctx := nofun
  drawn := nofun
  ret _ := ⟨rfl, by simp, rfl, rfl⟩
  shape := ⟨_, _, _, _, _, _, _, rfl⟩

theorem State.Returned.log (h : s.Returned i w0 w1 x) : x.log = {} := by
  obtain ⟨pc, w15, sr, corcon, activeCtx, ctxStack, free, rfl⟩ := h.shape
  rfl

theorem State.Returned.flags (h : s.Returned i w0 w1 x) : x.intcon1 = s.intcon1 := by
  obtain ⟨pc, w15, sr, corcon, activeCtx, ctxStack, free, rfl⟩ := h.shape
  rfl

theorem State.Returned.stk (h : s.Returned i w0 w1 x) :
    s.frameStk = true ↔ s.overLimit (s.w15 - 2) ∨ s.overLimit (s.w15 - 4) ∨ x.w15 < 0x1000 := by
  rw [h.w15]
  exact State.frameStk_iff

/-- SRH stays, whichever return it is. -/
theorem State.Returned.srh (hi : i = .retfie ∨ i = .ret) (h : s.Returned i w0 w1 x) :
    x.sr.extractLsb' 8 8 = s.sr.extractLsb' 8 8 := by
  rcases hi with hi | hi
  · rw [(h.retfie hi).1, BitVec.extractLsb'_append_eq_left]
  · rw [(h.ret hi).1]

/-- The underflow check of a return, after the checks of its pops. -/
theorem State.underflowCheck_popped {x : State} (hw15 : x.w15 = s.w15 - 4) :
    (x.detected s.frameBad (s.pastLimit (s.w15 - 2) || s.pastLimit (s.w15 - 4))).underflowCheck =
      x.detected s.frameBad s.frameStk := by
  rw [State.underflowCheck_detected, State.detected_detected, State.detected_w15, hw15, Bool.or_false]
  rfl

/-- Either return ends with what its two pops and the underflow check detect (R81, R91, R133). -/
theorem exec_return (hi : i = .retfie ∨ i = .ret) : ∃ x, exec i s = .next ((x.detected s.frameBad s.frameStk).settle s.cpuIpl) ∧
    s.Returned i s.fresh.pop16.popValue s.fresh.popValue x := by
  have hpops : s.fresh.pop16.pop16 = _ := State.pop16_pop16 s.fresh
  rcases hi with rfl | rfl
  · have hx := State.returned_retfie s s.fresh.pop16.popValue s.fresh.popValue
    refine ⟨_, ?_, hx⟩
    change Host.Outcome.next
      ((s.fresh.pop16.pop16.unstack s.fresh.pop16.popValue s.fresh.popValue).restoreCtx.underflowCheck.settle s.cpuIpl) = _
    rw [hpops, State.detected_unstack, State.detected_restoreCtx]
    exact congrArg (fun y => Host.Outcome.next (y.settle s.cpuIpl)) (State.underflowCheck_popped hx.w15)
  · obtain ⟨b, n, hret⟩ : ∃ b n, exec .ret s = .next (({ s.fresh.pop16.pop16 with
        corcon := setBit s.fresh.pop16.pop16.corcon 2 b, pc := framePc s.fresh.pop16.popValue s.fresh.popValue
        free := n } : State).underflowCheck.settle s.cpuIpl) := ⟨_, _, rfl⟩
    have hx := State.returned_ret s s.fresh.pop16.popValue s.fresh.popValue b n
    refine ⟨_, hret.trans ?_, hx⟩
    rw [← State.underflowCheck_popped hx.w15, hpops]
    rfl

end

end Sys2Proof.Machine

namespace Sys2Proof.Proofs

open Sys2Proof Sys2Proof.Machine

/-- Settles O24: over a frame in data memory the pops detect a stack error at most, and draw nothing. -/
theorem retfieResult : Obligations.RetfieResult := by
  intro s hframe
  have ⟨hfirst, hsecond⟩ := hframe
  obtain ⟨x, hrun, hx⟩ := exec_return (s := s) (i := .retfie) (.inl rfl)
  have hw1 : s.fresh.popValue = s.ramWord (s.w15 - 2) :=
    (State.first_popValue hfirst.1).trans (State.loadWord_of_ram hfirst)
  have hw0 : s.fresh.pop16.popValue = s.ramWord (s.w15 - 4) :=
    (State.second_popValue hsecond.1 (by rw [hsecond.2]; nofun)).trans (State.loadWord_of_ram hsecond)
  rw [State.frameBad_of_poppable hframe, State.settle_detected (a := false) hx.log (congrArg (·.getLsbD 1) hx.flags) nofun]
    at hrun
  rw [hw0, hw1] at hx
  obtain ⟨hsr, hipl3, hsfa⟩ := hx.retfie rfl
  refine ⟨_, hrun, hx.w15, hx.pc, hsr, hipl3, hsfa, hx.corcon, hx.ctx rfl, stackFlag_detected hx.flags hx.stk,
    State.quiet_detected hx.log, ?_⟩
  have hfree := (hx.drawn rfl).trans (State.free_popped_popped hframe)
  obtain ⟨pc, w15, sr, corcon, activeCtx, ctxStack, free, rfl⟩ := hx.shape
  obtain rfl : free = s.free := hfree
  rfl

/-- Settles O25: the address error of either pop is in the log at the return's end, where it conflicts or not. -/
theorem returnsFromBadStack : Obligations.ReturnsFromBadStack := by
  intro s i hi hbad
  obtain ⟨x, hrun, hx⟩ := exec_return (s := s) hi
  have hbad' : s.frameBad = true := Bool.or_eq_true_iff.mpr hbad
  have hflags1 : x.intcon1.getLsbD 1 = s.intcon1.getLsbD 1 := congrArg (·.getLsbD 1) hx.flags
  rw [hbad'] at hrun
  constructor
  · intro hfree
    rw [State.settle_detected hx.log hflags1 fun _ => hfree] at hrun
    obtain ⟨haddr, hother, hstk⟩ := State.addrErrorSet_detected hx.flags hx.stk
    have hsrh := hx.srh hi
    refine ⟨_, hrun, hx.w15, haddr, hother, hstk, ?_, ?_, hx.corcon, fun hgood => ⟨?_, fun hr => ?_⟩,
      fun hgood hsfr => ⟨?_, fun hr => ?_⟩, hsrh, hx.ctx, State.addrLogged_detected hx.log,
      hx.ret, ?_⟩
    · exact (congrArg (·.getLsbD 0) hx.pc).trans (framePc_even _ _)
    · exact (congrArg (·.getLsbD 23) hx.pc).trans (framePc_below _ _)
    · rw [← State.first_popValue hgood, ← extractLsb'_framePc_high s.fresh.pop16.popValue]
      exact congrArg (·.extractLsb' 16 7) hx.pc
    · obtain ⟨hsr, hipl3, _⟩ := hx.retfie hr
      rw [← State.first_popValue hgood]
      exact ⟨hsr, hipl3⟩
    · rw [← State.second_popValue hgood hsfr, ← extractLsb'_framePc_low _ s.fresh.popValue]
      exact congrArg (·.extractLsb' 1 15) hx.pc
    · obtain ⟨_, _, hsfa⟩ := hx.retfie hr
      rw [← State.second_popValue hgood hsfr]
      exact hsfa
    · obtain ⟨pc, w15, sr, corcon, activeCtx, ctxStack, free, rfl⟩ := hx.shape
      rfl
  · intro hnot
    rw [State.settle_addr_conflict hx.log hflags1 hnot] at hrun
    refine ⟨_, hrun, ?_⟩
    obtain ⟨pc, w15, sr, corcon, activeCtx, ctxStack, free, rfl⟩ := hx.shape
    exact State.conflictReset_deviceReset ⟨rfl, rfl, rfl⟩ rfl rfl

end Sys2Proof.Proofs
end

section
/-! SUPPORT. GOTO, BRA, RETURN, REPEAT, DO and the end of a DO loop (R72, R87 to R91, R127, R145), and the statements about them (O30
to O33, O37). -/

namespace Sys2Proof.Machine

open Sys2Proof

/-! ### The end of an instruction -/

/-- A step that detected a stack error at most conflicts with nothing (R127). -/
theorem State.settle_detected_stk {x : State} {k : Bool} {ipl : Nat} (hlog : x.log = {}) :
    (x.detected false k).settle ipl = x.detected false k := by
  refine State.settle_of_calm (State.logged_detected (State.logged_of_empty hlog) false k) ?_
  refine State.hardConflict_of_quiet ?_ ?_ ?_ <;> rw [State.detected_log hlog]

/-! ### Bits of CORCON -/

/-- DL written leaves the rest of CORCON (R13, R88). -/
theorem State.setDl_corcon_other (v : BitVec 3) (s : State) : (s.setDl v).corcon &&& 0xF8FF = s.corcon &&& 0xF8FF :=
  mergeBits_and_not_mask s.corcon _ 0x0700

/-! ### GOTO and BRA -/

theorem braTarget_eq (pc : PAddr) (n : BitVec 16) : braTarget pc n = pc + 2 + 2 * n.signExtend 24 := by
  rw [braTarget, BitVec.shiftLeft_eq_mul_twoPow, BitVec.mul_comm]
  rfl

/-- Control goes to an implemented target and nothing else changes (R89, R90). -/
theorem State.transfer_implemented {s : State} {target : PAddr} (h : s.dev.progAt target = true) :
    s.transfer target = s.fresh.setPc target := by
  have hto : s.transfer target = (s.fresh.setPc target).settle s.cpuIpl :=
    congrArg (fun x => (State.setPc x target).settle s.cpuIpl) (if_pos h)
  exact hto.trans (State.settle_of_fresh rfl)

/-- An unimplemented target is an address error detected with the PC there (R56). -/
theorem State.transfer_unimplemented {s : State} {target : PAddr} (h : s.dev.progAt target = false) :
    s.transfer target = ((s.fresh.setPc target).detected true false).settle s.cpuIpl := by
  rw [← State.detected_setPc, ← State.raiseHard_addr]
  exact congrArg (fun x => (State.setPc x target).settle s.cpuIpl) (if_neg (Bool.eq_false_iff.mp h))

/-! ### RETURN -/

/-- What a return without an exception makes of `s` and the two words that its pops read, its errors apart; `sfa` is what it leaves in
SFA (R91). -/
def State.afterRet (sfa : Bool) (free : Nat) (s : State) : State :=
  { s.fresh.popped.popped with
    corcon := setBit s.corcon 2 sfa, pc := framePc s.fresh.pop16.popValue s.fresh.popValue, free := free }

/-- RETURN restores SFA from frame word 0 or leaves it (R91). -/
theorem exec_ret (s : State) : ∃ sfa free, (sfa = s.sfa ∨ sfa = s.fresh.pop16.popValue.getLsbD 0) ∧
    exec .ret s = .next (((s.afterRet sfa free).detected s.frameBad s.frameStk).settle s.cpuIpl) := by
  have hpops : s.fresh.pop16.pop16 = _ := State.pop16_pop16 s.fresh
  have hsfa : s.fresh.pop16.pop16.sfa = s.sfa := by rw [hpops]; rfl
  obtain ⟨sfa, free, hcases, hret⟩ : ∃ sfa free, (sfa = s.fresh.pop16.pop16.sfa ∨ sfa = s.fresh.pop16.popValue.getLsbD 0) ∧
      exec .ret s = .next (({ s.fresh.pop16.pop16 with
        corcon := setBit s.fresh.pop16.pop16.corcon 2 sfa, pc := framePc s.fresh.pop16.popValue s.fresh.popValue
        free := free } : State).underflowCheck.settle s.cpuIpl) :=
    ⟨_, _, (ite_eq_or_eq _ _ _).symm, rfl⟩
  have hw15 : (s.afterRet sfa free).w15 = s.w15 - 4 := s.popped_popped_w15
  refine ⟨sfa, free, hsfa ▸ hcases, hret.trans ?_⟩
  rw [← State.underflowCheck_popped hw15, hpops]
  rfl

/-! ### DO -/

/-- A DO on a stack that is not full pushes its loop, and SR outside IPL is free (R88). -/
theorem exec_doLoop {s : State} {count : Word} {stop : PAddr} (hdsp : s.dev.hasDsp = true) (hdl : s.dl ≠ 4) :
    exec (.doLoop count stop) s = .next (s.pushLoop count stop).execFlags.advance := by
  change execDoLoop count stop s = _
  rw [execDoLoop, hdsp, if_neg hdl]
  rfl

theorem exec_doLoop_full {s : State} {count : Word} {stop : PAddr} (hdsp : s.dev.hasDsp = true) (hdl : s.dl = 4) :
    exec (.doLoop count stop) s = .next s.doOverflow.advance := by
  change execDoLoop count stop s = _
  rw [execDoLoop, hdsp, if_pos hdl]
  rfl

/-- Below the fourth level the loop's entry is that of the level left. -/
theorem State.pushLoop_of_lt {s : State} {count : Word} {stop : PAddr} (h : s.dl.toNat < 4) : s.pushLoop count stop =
    { s with doStack := s.doStack.set s.dl.toNat ⟨count, s.pc + 2, stop⟩ }.setDl (s.dl + 1) := dif_pos h

/-- No run reaches a level above the fourth; from there the level becomes free. -/
theorem State.pushLoop_of_ge {s : State} {count : Word} {stop : PAddr} (h : ¬s.dl.toNat < 4) :
    s.pushLoop count stop = s.draw.setDl ((Config.freeWord s.free).extractLsb' 0 3) := dif_neg h

/-! ### The end of a DO loop -/

/-- SR.DA is free after the last instruction of a loop, and which way the loop goes is drawn (R88). -/
def State.loopDrawn (s : State) : State := { s with sr := setBit s.sr 9 (Config.freeBool (s.free + 1)), free := s.free + 2 }

theorem State.loopEnd_of_no_loop {s : State} {last : PAddr} (h : s.dl.toNat = 0 ∨ 4 < s.dl.toNat) : s.loopEnd last = s :=
  dif_neg (by omega)

/-- The innermost loop is the one of the level below DL. -/
theorem State.loopEnd_of_loop {s : State} {last : PAddr} {k : Fin 4} (hk : s.dl.toNat = k.val + 1) : s.loopEnd last =
    if s.doStack[k].stop = last ∧ s.pc = last + 2 then
      if Config.freeBool s.free then s.loopDrawn.setPc s.doStack[k].start else s.loopDrawn.setDl (s.dl - 1)
    else s := by
  have hlevel : 0 < s.dl.toNat ∧ s.dl.toNat ≤ 4 := by omega
  have hindex : s.dl.toNat - 1 = k.val := by omega
  rw [State.loopEnd, dif_pos hlevel]
  simp only [hindex]
  rfl

end Sys2Proof.Machine

namespace Sys2Proof.Proofs

open Sys2Proof Sys2Proof.Machine

/-- Settles O30. -/
theorem gotoAndBraResult : Obligations.GotoAndBraResult := by
  intro s i target hi
  have hrun : exec i s = .next (s.transfer target) := by
    rcases hi with ⟨tgt, rfl, rfl⟩ | ⟨n, rfl, rfl⟩
    · rfl
    · rw [← braTarget_eq]
      rfl
  refine ⟨fun himpl => ?_, fun hun hfree => ?_, fun hun hnot => ?_⟩
  · rw [State.transfer_implemented himpl] at hrun
    exact ⟨_, hrun, State.quiet_of_log rfl, rfl⟩
  · rw [State.transfer_unimplemented hun, State.settle_detected (s := s) (x := s.fresh.setPc target) rfl rfl fun _ => hfree] at hrun
    refine ⟨_, hrun, State.addrLogged_detected rfl, ?_⟩
    simp [State.detected, State.setPc, State.fresh]
  · rw [State.transfer_unimplemented hun, State.settle_addr_conflict (s := s) (x := s.fresh.setPc target) rfl rfl hnot] at hrun
    exact ⟨_, hrun, State.conflictReset_deviceReset ⟨rfl, rfl, rfl⟩ rfl rfl⟩

/-- Settles O31: over a frame in data memory the pops detect a stack error at most. -/
theorem returnResult : Obligations.ReturnResult := by
  intro s hframe
  have ⟨hfirst, hsecond⟩ := hframe
  obtain ⟨sfa, free, hsfa, hrun⟩ := exec_ret s
  have hw1 : s.fresh.popValue = s.ramWord (s.w15 - 2) :=
    (State.first_popValue hfirst.1).trans (State.loadWord_of_ram hfirst)
  have hw0 : s.fresh.pop16.popValue = s.ramWord (s.w15 - 4) :=
    (State.second_popValue hsecond.1 (by rw [hsecond.2]; nofun)).trans (State.loadWord_of_ram hsecond)
  rw [State.frameBad_of_poppable hframe, State.settle_detected_stk (x := s.afterRet sfa free) rfl] at hrun
  have hsp : (s.afterRet sfa free).w15 = s.w15 - 4 := s.popped_popped_w15
  refine ⟨_, hrun, hsp, ?_, setBit_and_of_unselected (by decide), ?_, ?_, State.quiet_detected rfl, rfl⟩
  · change framePc _ _ = _
    rw [hw0, hw1, framePc]
  · rw [hw0] at hsfa
    have hbit : (setBit s.corcon 2 sfa).getLsbD 2 = sfa := by simp
    exact hsfa.imp hbit.trans hbit.trans
  · refine stackFlag_detected rfl ?_
    rw [State.detected_w15, hsp]
    exact State.frameStk_iff

/-- Settles O32. -/
theorem doResult : Obligations.DoResult := by
  intro s count stop hdsp
  refine ⟨exec_doLoop_full hdsp, fun k hk => ?_, fun hk => ?_⟩
  · have hdl : s.dl.toNat = k.val := hk
    have hlt : s.dl.toNat < 4 := hdl.trans_lt k.isLt
    have hne : s.dl ≠ 4 := fun h => by rw [h] at hlt; exact absurd hlt (by decide)
    have hrun := exec_doLoop (count := count) (stop := stop) hdsp hne
    rw [State.pushLoop_of_lt hlt] at hrun
    refine ⟨_, hrun, ?_, State.setDl_corcon_other .., ?_, fun j hj => ?_, execFlags_ipl .., rfl⟩
    · refine (congrArg BitVec.toNat (State.dl_setDl _ _)).trans ?_
      bv_omega
    · simp [State.setDl, hdl]
    · have hne : k.val ≠ j.val := fun e => hj (Fin.ext e.symm)
      simp [State.setDl, hdl, hne]
  · have hge : ¬s.dl.toNat < 4 := Nat.not_lt.mpr (Nat.le_of_lt hk)
    have hne : s.dl ≠ 4 := fun h => absurd hk (by rw [← State.dl, h]; decide)
    have hrun := exec_doLoop (count := count) (stop := stop) hdsp hne
    rw [State.pushLoop_of_ge hge] at hrun
    exact ⟨_, hrun, State.setDl_corcon_other .., execFlags_ipl .., rfl⟩

/-- Settles O33: which way the loop goes is the free choice of `State.loopDrawn`. -/
theorem loopEndResult : Obligations.LoopEndResult := by
  intro s last
  refine ⟨fun h => State.loopEnd_of_no_loop (h.imp_left (congrArg BitVec.toNat)), fun k hk => ⟨fun h => ?_, fun hstop hpc => ?_⟩⟩
  · have hoff : ¬(s.doStack[k].stop = last ∧ s.pc = last + 2) := fun ⟨hstop, hpc⟩ => h.elim (· hstop) (· hpc)
    rw [State.loopEnd_of_loop hk, if_neg hoff]
  · refine ⟨_, (State.loopEnd_of_loop hk).trans (if_pos ⟨hstop, hpc⟩), ?_, fun hback => ?_, fun hend => ?_⟩
    · split <;> exact setBit_and_of_unselected (by decide)
    · rw [if_pos hback]
      rfl
    · have hdl : s.dl.toNat = k.val + 1 := hk
      rw [if_neg (Bool.eq_false_iff.mp hend)]
      refine ⟨(congrArg BitVec.toNat (State.dl_setDl _ _)).trans ?_, State.setDl_corcon_other .., rfl⟩
      bv_omega

/-- Settles O37. -/
theorem repeatIsRefused : Obligations.RepeatIsRefused := fun _ => rfl

end Sys2Proof.Proofs
end

section
/-! SUPPORT. Bit tests whose operand can be read (R93, R96, R97, R99), SFTAC and the divide instruction (R85, R86, R137, R138), the MAC
class with both its operands in their data spaces (R92, R135, R136), and the statements about them (O34 to O36, O38). -/

namespace Sys2Proof.Machine

open Sys2Proof

/-! ### SR free -/

/-- SR bits outside IPL become free: SR and the draw count change, IPL stays (R12). -/
theorem State.exists_execFlags (s : State) : ∃ sr free, sr &&& 0x00E0 = s.sr &&& 0x00E0 ∧
    s.execFlags = { s with sr := sr, free := free } :=
  ⟨_, _, execFlags_ipl .., rfl⟩

/-! ### Bit tests -/

/-- The stack checks of an operand that is addressed through W15 fail (R99, R133). -/
def State.operandStk (op : Operand) (s : State) : Bool := Operand.usesW15 op && (s.pastLimit s.w15 || decide (s.w15 < 0x1000))

/-- What a bit test goes on with, skipping or not: SR outside IPL is free (R96). -/
def State.tested (skips : Bool) (s : State) : State :=
  if skips then s.fresh.draw.execFlags.skipNext else s.fresh.draw.execFlags.advance

section
variable {s : State}

/-- A skip goes past the next instruction, which a waiting request's count takes in (R96, D8). -/
theorem State.tested_skip : (s.tested true).pc = s.skipTarget ∧ (s.tested true).skid = if 0 < s.skid then s.skid + 1 else 0 :=
  ⟨(State.skipNext_pc _).trans (State.skipTarget_congr rfl rfl rfl), rfl⟩

theorem State.tested_go : (s.tested false).pc = s.pc + 2 ∧ (s.tested false).skid = s.skid := ⟨rfl, rfl⟩

theorem State.tested_frame (skips : Bool) : ∃ pc sr skid free, sr &&& 0x00E0 = s.sr &&& 0x00E0 ∧
    s.tested skips = { s with pc := pc, sr := sr, skid := skid, free := free, log := {} } := by
  obtain ⟨sr, free, hsr, hexec⟩ := State.exists_execFlags s.fresh.draw
  rw [State.tested, hexec]
  cases skips
  · exact ⟨_, _, _, _, hsr, rfl⟩
  · exact ⟨_, _, _, _, hsr, rfl⟩

theorem State.operandCheck_detected (op : Operand) :
    s.operandCheck op = s.detected false (Operand.usesW15 op && s.pastLimit s.w15) := by
  have hthrough {w : WReg} (hop : Operand.through op w) :
      s.operandCheck op = s.detected false (Operand.usesW15 op && s.pastLimit s.w15) := by
    rw [State.operandCheck_through hop, Operand.usesW15_through hop, State.pointerStk, Bool.false_and, Bool.or_false]
  cases op with
  | direct w => exact (State.detected_none s).symm
  | indirect w => exact hthrough (Operand.through_indirect w)
  | paged w => exact hthrough (Operand.through_paged w)

variable {want : Bool} {bit : Fin 16} {op : Operand}

/-- A bit test whose operand can be read skips exactly if the tested bit has the wanted value (R96). -/
theorem State.testSkip_good (heven : s.oddIndirect op = false) (hgood : s.badRead .word op = false) :
    s.testSkip want bit op = (s.tested (s.operandBit bit op == want)).detected false (s.operandStk op) := by
  have heven' : s.fresh.oddIndirect op = false := heven
  have hgood' : s.fresh.badRead .word op = false := hgood
  have hend (x : State) (hlog : x.log = {}) (hw15 : x.w15 = s.w15) :
      ((x.detected false (Operand.usesW15 op && s.pastLimit s.w15)).underflowAfter (Operand.usesW15 op) s.w15).settle s.cpuIpl =
        x.detected false (s.operandStk op) := by
    rw [State.underflowAfter_detected, State.detected_detected, State.detected_w15, hw15, bne_self_eq_false, Bool.or_false,
      Bool.or_false, ← Bool.and_or_distrib_left]
    exact State.settle_detected_stk hlog
  have hrun : s.testSkip want bit op = ((if s.operandBit bit op = want
      then s.fresh.draw.execFlags.skipNext.detected false (Operand.usesW15 op && s.pastLimit s.w15)
      else s.fresh.draw.execFlags.advance.detected false (Operand.usesW15 op && s.pastLimit s.w15)).underflowAfter
        (Operand.usesW15 op) s.w15).settle s.cpuIpl := by
    simp only [State.testSkip, heven', hgood', Bool.false_eq_true, if_false, State.operandCheck_detected, State.detected_draw,
      State.detected_execFlags, State.detected_skipNext, State.detected_advance]
    rfl
  rw [hrun]
  split
  · rename_i hb
    rw [beq_iff_eq.mpr hb]
    exact hend _ rfl rfl
  · rename_i hb
    rw [beq_eq_false_iff_ne.mpr hb]
    exact hend _ rfl rfl

theorem exec_bitTest_good {i : Instr} (hi : (i = .btsc bit op ∧ want = false) ∨ (i = .btss bit op ∧ want = true))
    (heven : s.oddIndirect op = false) (hgood : s.badRead .word op = false) :
    exec i s = .next ((s.tested (s.operandBit bit op == want)).detected false (s.operandStk op)) := by
  rw [← State.testSkip_good heven hgood]
  rcases hi with ⟨rfl, rfl⟩ | ⟨rfl, rfl⟩ <;> rfl

theorem State.even_of_word {a : Word} (h : s.badAccess .word a = false) : a.getLsbD 0 = false := by
  simp only [State.badAccess, Bool.or_eq_false_iff] at h
  exact h.1.1

theorem State.operandStk_iff : s.operandStk op = true ↔ Operand.usesW15 op = true ∧ (s.overLimit s.w15 ∨ s.w15 < 0x1000) := by
  rw [State.operandStk, Bool.and_eq_true, Bool.or_eq_true, State.pastLimit_iff, decide_eq_true_eq]

end

/-! ### SFTAC -/

section
variable {s : State} {acc : AccSel} {amount : ShiftAmount}

theorem exec_sftac_beyond (hdsp : s.dev.hasDsp = true) (h : 16 < s.shiftAmount amount ∨ s.shiftAmount amount < -16) :
    exec (.sftac acc amount) s = .next s.shiftError.advance := by
  change execSftac acc amount s = _
  rw [execSftac, hdsp, if_pos h]
  rfl

theorem exec_sftac_within (hdsp : s.dev.hasDsp = true) (h : -16 ≤ s.shiftAmount amount ∧ s.shiftAmount amount ≤ 16) :
    exec (.sftac acc amount) s = .next (s.setAcc acc (Config.freeAcc s.free)).draw.execFlags.advance := by
  change execSftac acc amount s = _
  have hwithin : ¬(16 < s.shiftAmount amount ∨ s.shiftAmount amount < -16) := by omega
  rw [execSftac, hdsp, if_neg hwithin]
  rfl

end

/-! ### The divide instruction -/

/-- The state in which the divide's destinations are written: the divide-by-zero check of the first iteration is made (R137). -/
def State.dividing (zero : Bool) (s : State) : State := if zero then s.fresh.divideError else s.fresh

/-- What the divide leaves, its stack error apart. -/
def State.divided (zero : Bool) (dsts : List WReg) (s : State) : State := ((s.dividing zero).freeRegs dsts).execFlags.advance

section
variable {s : State}

/-- The underflow check of an instruction that used no pointer. -/
theorem State.leftBelow_moved {x : State} :
    ((false || x.w15 != s.w15) && decide (x.w15 < 0x1000)) = true ↔ s.leftBelow False x := by
  rw [State.leftBelow_iff, Bool.false_eq_true]

theorem exec_div (d : WReg) (first : Bool) (dsts : List WReg) (s : State) : exec (.div d first dsts) s =
    .next ((s.divided (first && s.readW d == 0) dsts).detected false
      ((false || (s.divided (first && s.readW d == 0) dsts).w15 != s.w15) &&
        decide ((s.divided (first && s.readW d == 0) dsts).w15 < 0x1000))) := by
  rw [← State.underflowAfter_detected]
  rfl

theorem State.dividing_intcon1 (zero : Bool) : (s.dividing zero).intcon1 = s.intcon1 ||| (if zero then 0x0050 else 0) := by
  cases zero
  · exact BitVec.or_zero.symm
  · rfl

/-- The divide changes its destinations, SR, the flags of a divide by zero and the draw count (R86). -/
theorem State.divided_frame (zero : Bool) (dsts : List WReg) : ∃ w alt1 alt2 w15 sr free, sr &&& 0x00E0 = s.sr &&& 0x00E0 ∧
    s.divided zero dsts = { s with
      pc := s.pc + 2, w := w, alt1 := alt1, alt2 := alt2, w15 := w15, sr := sr
      intcon1 := s.intcon1 ||| (if zero then 0x0050 else 0), free := free, log := {} } := by
  have hfree := State.freeRegs_frame dsts (s.dividing zero)
  rw [State.divided, hfree]
  generalize (s.dividing zero).freeRegs dsts = y
  rw [← State.dividing_intcon1]
  cases zero <;> exact ⟨_, _, _, _, _, _, execFlags_ipl .., rfl⟩

theorem State.divided_regs (zero : Bool) (dsts : List WReg) : s.onlyRegs (s.divided zero dsts) dsts := by
  have hbefore : s.onlyRegs (s.dividing zero) dsts := by
    cases zero <;> exact State.onlyRegs_congr (State.onlyRegs_refl s _) rfl rfl rfl rfl rfl rfl
  have hdev : (s.dividing zero).dev = s.dev := by cases zero <;> rfl
  have hctx : (s.dividing zero).activeCtx = s.activeCtx := by cases zero <;> rfl
  exact State.onlyRegs_congr (State.onlyRegs_freeRegs dsts hbefore hdev hctx fun _ h => h) rfl rfl rfl rfl rfl rfl

end

/-! ### The MAC class -/

/-- What the MAC class leaves, its address and stack errors apart (R92). -/
def State.accumulated (acc : AccSel) (dsts : List WReg) (s : State) : State :=
  ((s.fresh.macResult acc).freeRegs dsts).advance

/-- The stack checks of the two pointers of a MAC of `s` fail, or that of the W15 in `x` which it leaves (R99, R133). -/
def State.macStk (p q : WReg) (s x : State) : Bool :=
  s.pointerStk p false || s.pointerStk q false || ((p.val == 15 || q.val == 15 || x.w15 != s.w15) && decide (x.w15 < 0x1000))

section
variable {s : State} {acc : AccSel} {p q : WReg} {dsts : List WReg}

theorem exec_macClass_good (hdsp : s.dev.hasDsp = true) (hx : s.badX (s.readW p) = false) (hy : s.badY (s.readW q) = false) :
    exec (.macClass acc p q dsts) s =
      .next ((s.accumulated acc dsts).detected false (State.macStk p q s (s.accumulated acc dsts))) := by
  have hgood : (s.fresh.badX (s.fresh.readW p) || s.fresh.badY (s.fresh.readW q)) = false := Bool.or_eq_false_iff.mpr ⟨hx, hy⟩
  have hfirst : s.fresh.pointerCheck p (s.fresh.readW p) false = s.fresh.detected false (s.pointerStk p false) :=
    State.pointerCheck_word s.fresh p
  have hsecond (k : Bool) : (s.fresh.detected false k).pointerCheck q (s.fresh.readW q) false =
      (s.fresh.detected false k).detected false (s.pointerStk q false) := State.pointerCheck_word (s.fresh.detected false k) q
  have hlog : (s.accumulated acc dsts).log = {} := by simp [State.accumulated]
  rw [← State.settle_detected_stk hlog (ipl := s.cpuIpl)]
  change execMacClass acc p q dsts s = _
  simp only [execMacClass, hdsp, Bool.not_true, Bool.false_eq_true, if_false, hfirst, hsecond, hgood, State.detected_detected,
    State.detected_macResult, State.detected_freeRegs, State.detected_advance, State.underflowAfter_detected, Bool.or_self,
    State.detected_w15]
  rfl

theorem State.macStk_iff {x : State} : State.macStk p q s x = true ↔
    ((p.val = 15 ∨ q.val = 15) ∧ s.overLimit s.w15) ∨ s.leftBelow (p.val = 15 ∨ q.val = 15) x := by
  rw [State.macStk, Bool.or_eq_true, Bool.or_eq_true, State.pointerStk_iff, State.pointerStk_iff, State.leftBelow_iff,
    Bool.or_eq_true, beq_iff_eq, beq_iff_eq, or_and_right]
  simp [State.pointerFails]

theorem State.accumulated_regs : s.onlyRegs (s.accumulated acc dsts) dsts :=
  State.onlyRegs_congr (State.onlyRegs_freeRegs dsts (State.onlyRegs_congr (State.onlyRegs_refl s _) (by simp) (by simp)
    (by simp) (by simp) (by simp) (by simp)) (by simp) (by simp) fun _ h => h) rfl rfl rfl rfl rfl rfl

/-- The other accumulator stays (R92). -/
theorem State.accumulated_other : (acc = .a → (s.accumulated acc dsts).accB = s.accB) ∧
    (acc = .b → (s.accumulated acc dsts).accA = s.accA) := by
  have ⟨hB, hA⟩ := State.macResult_other s.fresh
  constructor
  · rintro rfl; simpa [State.accumulated] using hB
  · rintro rfl; simpa [State.accumulated] using hA

/-- The flags of INTCON1 and SR after a MAC, its address and stack errors apart (R135, R136). -/
theorem State.accumulated_flags : ∃ (v c : Bool) (free : Word),
    (v = true → s.corcon.getLsbD (if acc = .a then 7 else 6) = false ∨ s.corcon.getLsbD 4 = true) ∧
    (c = true → s.corcon.getLsbD (if acc = .a then 7 else 6) = false) ∧
    (s.accumulated acc dsts).intcon1 = s.intcon1 ||| macMask acc v c s.intcon1 ∧
    (s.accumulated acc dsts).sr = mergeBits s.sr free 0xFF1F ||| (if v then AccSel.overflowSr acc else 0) := by
  simpa [State.accumulated] using State.macResult_flags acc s.fresh

/-- An overflow event sets no bit of IPL. -/
theorem macSr_ipl (sr free : Word) (acc : AccSel) (v : Bool) :
    (mergeBits sr free 0xFF1F ||| (if v then AccSel.overflowSr acc else 0)) &&& 0x00E0 = sr &&& 0x00E0 := by
  have hno : (if v then AccSel.overflowSr acc else 0) &&& 0x00E0 = 0 := by cases v <;> cases acc <;> decide
  rw [BitVec.and_comm, BitVec.and_or_distrib_left, BitVec.and_comm, BitVec.and_comm _ (ite ..), hno]
  exact BitVec.or_zero.trans (execFlags_ipl _ _)

/-- Words that agree on a mask agree within it. -/
theorem and_eq_of_within {a b m r : Word} (h : a &&& m = b &&& m) (hr : m &&& r = r) : a &&& r = b &&& r := by
  rw [← hr, ← BitVec.and_assoc, h, BitVec.and_assoc]

/-- A stack error sets STKERR alone. -/
theorem State.detected_stk_other {x : State} {k : Bool} : (x.detected false k).intcon1 &&& 0xFFFB = x.intcon1 &&& 0xFFFB := by
  apply BitVec.eq_of_getLsbD_eq
  intro i hi
  rw [BitVec.getLsbD_and, BitVec.getLsbD_and, State.getLsbD_detected]
  interval_cases i <;> simp

end

end Sys2Proof.Machine

namespace Sys2Proof.Proofs

open Sys2Proof Sys2Proof.Machine

/-- What a bit test whose operand can be read does, by whether it skips. -/
theorem bitTestResult {s : State} {i : Instr} {want : Bool} {bit : Fin 16} {op : Operand} {P : Prop}
    (hi : (i = .btsc bit op ∧ want = false) ∨ (i = .btss bit op ∧ want = true))
    (heven : s.oddIndirect op = false) (hgood : s.badRead .word op = false)
    (hP : Operand.usesW15 op = true ∧ (s.overLimit s.w15 ∨ s.w15 < 0x1000) ↔ P) :
    ∃ t, exec i s = .next t ∧ t.sr &&& 0x00E0 = s.sr &&& 0x00E0 ∧
      (s.operandBit bit op = want → t.pc = s.skipTarget ∧ t.skid = if 0 < s.skid then s.skid + 1 else 0) ∧
      (s.operandBit bit op ≠ want → t.pc = s.pc + 2 ∧ t.skid = s.skid) ∧
      stackFlag s.intcon1 t.intcon1 P ∧
      t.quiet ∧ t = { s with pc := t.pc, sr := t.sr, skid := t.skid, intcon1 := t.intcon1, free := t.free, log := t.log } := by
  obtain ⟨pc, sr, skid, free, hsr, hframe⟩ := State.tested_frame (s := s) (s.operandBit bit op == want)
  refine ⟨_, exec_bitTest_good hi heven hgood, ?_, fun hb => ?_, fun hb => ?_, ?_, State.quiet_detected ?_, ?_⟩
  · rw [hframe]; exact hsr
  · rw [beq_iff_eq.mpr hb]; exact State.tested_skip
  · rw [beq_eq_false_iff_ne.mpr hb]; exact State.tested_go
  · exact stackFlag_detected (by rw [hframe]) (State.operandStk_iff.trans hP)
  · rw [hframe]
  · rw [hframe]; rfl

/-- Settles O34: the operand of a register or in memory has the bit that is tested, that of a page a free one. -/
theorem bitTestSkipResult : Obligations.BitTestSkipResult := by
  rintro s i want bit op past hi rfl
  refine ⟨fun b hb => ?_, fun w hop hpage heven => ?_⟩
  · rcases hb with ⟨w, rfl, rfl⟩ | ⟨w, rfl, hgood, rfl⟩
    · exact bitTestResult hi rfl rfl (by simp [Operand.usesW15])
    · have hbit : s.operandBit bit (.indirect w) = (s.loadWord (s.readW w)).getLsbD bit.val := if_neg (Bool.eq_false_iff.mp hgood)
      rw [← hbit]
      exact bitTestResult hi (State.even_of_word hgood) hgood (by simp [Operand.usesW15])
  · subst hop
    have hread : s.badRead .word (.paged w) = false :=
      Bool.or_eq_false_iff.mpr ⟨beq_eq_false_iff_ne.mpr hpage, Bool.and_eq_false_iff.mpr (.inr heven)⟩
    obtain ⟨t, hrun, hsr, hskip, hgo, hflag, hquiet, hframe⟩ := bitTestResult hi heven hread Iff.rfl
    refine ⟨t, hrun, hsr, ?_, ?_, hquiet, hframe⟩
    · exact (em _).imp hskip hgo
    · simpa [Operand.usesW15] using hflag

/-- Settles O35. -/
theorem sftacResult : Obligations.SftacResult := by
  intro s acc amount k hdsp hk
  have hamount : s.shiftAmount amount = k := by
    rcases hk with rfl | ⟨w, rfl, rfl⟩ <;> rfl
  refine ⟨fun hbeyond => exec_sftac_beyond hdsp (by omega), fun hlo hhi => ?_⟩
  have hrun := exec_sftac_within (acc := acc) hdsp (amount := amount) (by omega)
  obtain ⟨sr, free, hsr, hexec⟩ := State.exists_execFlags (s.setAcc acc (Config.freeAcc s.free)).draw
  rw [hexec] at hrun
  cases acc
  · exact ⟨_, hrun, fun _ => rfl, nofun, hsr, rfl⟩
  · exact ⟨_, hrun, nofun, fun _ => rfl, hsr, rfl⟩

/-- Settles O36: INTCON1 gets the flags of a divide by zero, then that of the underflow check. -/
theorem divideResult : Obligations.DivideResult := by
  intro s d first dsts
  have hrun := exec_div d first dsts s
  generalize hz : (first && s.readW d == 0) = zero at hrun
  have hregs := State.divided_regs (s := s) zero dsts
  obtain ⟨w, alt1, alt2, w15, sr, free, hsr, hframe⟩ := State.divided_frame (s := s) zero dsts
  generalize s.divided zero dsts = x at hrun hregs hframe
  have hflag {base : Word} (hbase : x.intcon1 = base) : stackFlag base _ (s.leftBelow False x) :=
    hbase ▸ stackFlag_detected (s := x) rfl State.leftBelow_moved
  have hzero : zero = true ↔ first = true ∧ s.readW d = 0 := by rw [← hz, Bool.and_eq_true, beq_iff_eq]
  refine ⟨_, hrun, State.onlyRegs_congr hregs rfl rfl rfl rfl rfl rfl, ?_, fun hfirst hd => hflag ?_, fun hno => hflag ?_,
    State.quiet_detected ?_, ?_⟩
  · rw [hframe]; exact hsr
  · rw [hframe, hzero.mpr ⟨hfirst, hd⟩]; rfl
  · have hclear : zero = false := by
      rw [Bool.eq_false_iff, Ne, hzero, not_and_or, Bool.not_eq_true]
      exact hno
    rw [hframe, hclear]
    exact BitVec.or_zero
  · rw [hframe]
  · rw [hframe]; rfl

/-- Settles O38: the events of the accumulator set flags that the stack checks do not touch. -/
theorem macResult : Obligations.MacResult := by
  intro s acc x y dsts hdsp hx hxx hy hyy
  have hbadX : s.badX (s.readW x) = false := Bool.or_eq_false_iff.mpr ⟨hx, hxx⟩
  have hbadY : s.badY (s.readW y) = false := by rw [State.badY, hy, hyy]; rfl
  have hrun := exec_macClass_good (acc := acc) (dsts := dsts) hdsp hbadX hbadY
  obtain ⟨v, c, free, hv, hc, hflags, hsr⟩ := State.accumulated_flags (s := s) (acc := acc) (dsts := dsts)
  have hregs : s.onlyRegs (s.accumulated acc dsts) dsts := State.accumulated_regs
  have ⟨hB, hA⟩ := State.accumulated_other (s := s) (acc := acc) (dsts := dsts)
  have hpc : (s.accumulated acc dsts).pc = s.pc + 2 := by simp [State.accumulated]
  have hskid : (s.accumulated acc dsts).skid = s.skid := by simp [State.accumulated]
  have hshape : s.ReadShape (s.accumulated acc dsts) := (State.ReadShape.fresh s).macResult.freeRegs.setPc
  generalize s.accumulated acc dsts = t at *
  have hkept := State.macResult_and_other hflags
  refine ⟨_, hrun, State.onlyRegs_congr hregs rfl rfl rfl rfl rfl rfl, ?_, hB, hA, ?_, State.macFlags_detected hv hc hflags hsr,
    ?_, State.quiet_detected hshape.log, ?_⟩
  · exact (congrArg (· &&& 0x00E0) hsr).trans (macSr_ipl ..)
  · exact (and_eq_of_within State.detected_stk_other (by decide)).trans (and_eq_of_within hkept (by decide))
  · have hbit : t.intcon1.getLsbD 2 = s.intcon1.getLsbD 2 := by simpa using congrArg (·.getLsbD 2) hkept
    rw [State.getLsbD_detected_stk, hbit, Bool.or_eq_true, State.macStk_iff]
    rfl
  · obtain ⟨pc, w, alt1, alt2, w15, sr, intcon1, accA, accB, skid, free, rfl⟩ := hshape
    obtain rfl : pc = s.pc + 2 := hpc
    obtain rfl : skid = s.skid := hskid
    rfl

end Sys2Proof.Proofs
end

section
/-! SUPPORT. Bit manipulations, MOV.D and TBLRDx whose accesses raise no address error (R93 to R95, R99, R133), and the statements about
them (O39 to O41). -/

namespace Sys2Proof.Machine

open Sys2Proof

/-! ### What the draws, the flags and data memory leave -/

section
variable (s : State)

@[simp] theorem State.fresh_readW (i : WReg) : s.fresh.readW i = s.readW i := rfl
@[simp] theorem State.draw_readW (i : WReg) : s.draw.readW i = s.readW i := rfl
@[simp] theorem State.execFlags_readW (i : WReg) : s.execFlags.readW i = s.readW i := rfl
@[simp] theorem State.fresh_ramByte (a : Word) : s.fresh.ramByte a = s.ramByte a := rfl
@[simp] theorem State.draw_ramByte (a : Word) : s.draw.ramByte a = s.ramByte a := rfl
@[simp] theorem State.execFlags_ramByte (a : Word) : s.execFlags.ramByte a = s.ramByte a := rfl
@[simp] theorem State.detected_setRamWord (a k : Bool) (ea v : Word) :
    (s.detected a k).setRamWord ea v = (s.setRamWord ea v).detected a k := rfl
@[simp] theorem State.detected_dev (a k : Bool) : (s.detected a k).dev = s.dev := rfl

end

/-! ### Instructions that write working registers -/

/-- State `x` differs from `s` as an instruction that writes the working registers `ds` may, its stack errors apart: in those
registers, in SR outside IPL, in the draw count and in an empty log. -/
structure State.RegsOnly (s : State) (ds : List WReg) (x : State) : Prop where
  regs : s.onlyRegs x ds
  ipl : x.sr &&& 0x00E0 = s.sr &&& 0x00E0
  shape : ∃ w alt1 alt2 w15 sr free, x = { s with
    w := w, alt1 := alt1, alt2 := alt2, w15 := w15, sr := sr, free := free, log := {} }

namespace State.RegsOnly

variable {s x : State} {ds : List WReg}

theorem fresh (s : State) (ds : List WReg) : s.RegsOnly ds s.fresh :=
  ⟨State.onlyRegs_refl s _, rfl, _, _, _, _, _, _, rfl⟩

theorem draw (h : s.RegsOnly ds x) : s.RegsOnly ds x.draw := by
  obtain ⟨hregs, hipl, w, alt1, alt2, w15, sr, free, rfl⟩ := h
  exact ⟨hregs, hipl, _, _, _, _, _, _, rfl⟩

theorem execFlags (h : s.RegsOnly ds x) : s.RegsOnly ds x.execFlags := by
  obtain ⟨hregs, hipl, w, alt1, alt2, w15, sr, free, rfl⟩ := h
  exact ⟨hregs, (execFlags_ipl _ _).trans hipl, _, _, _, _, _, _, rfl⟩

theorem writeW {i : WReg} {v : Word} (h : s.RegsOnly ds x) (hi : i ∈ ds) : s.RegsOnly ds (x.writeW i v) := by
  obtain ⟨hregs, hipl, w, alt1, alt2, w15, sr, free, rfl⟩ := h
  refine ⟨State.onlyRegs_writeW hregs rfl rfl hi, (congrArg (· &&& 0x00E0) (State.writeW_sr ..)).trans hipl, ?_⟩
  obtain ⟨w', alt1', alt2', w15', hw⟩ := State.exists_writeW { s with
    w := w, alt1 := alt1, alt2 := alt2, w15 := w15, sr := sr, free := free, log := {} } i v
  exact ⟨_, _, _, _, _, _, hw⟩

theorem log (h : s.RegsOnly ds x) : x.log = {} := by
  obtain ⟨-, -, w, alt1, alt2, w15, sr, free, rfl⟩ := h
  rfl

theorem flags (h : s.RegsOnly ds x) : x.intcon1 = s.intcon1 := by
  obtain ⟨-, -, w, alt1, alt2, w15, sr, free, rfl⟩ := h
  rfl

/-- How an instruction ends that writes working registers: `k` is whether the checks of its pointer fail. -/
theorem result {i : Instr} {used k : Bool} {P Q : Prop} (h : s.RegsOnly ds x)
    (hrun : exec i s = .next (s.fresh.finish used (x.detected false k))) (hP : k = true ↔ P) (hQ : used = true ↔ Q) :
    ∃ t, exec i s = .next t ∧ (∀ j, t.readW j = x.readW j) ∧ s.onlyRegs t ds ∧ t.sr &&& 0x00E0 = s.sr &&& 0x00E0 ∧
      stackFlag s.intcon1 t.intcon1 (P ∨ s.leftBelow Q t) ∧
      t.quiet ∧ t = { s with
        pc := s.pc + 2, w := t.w, alt1 := t.alt1, alt2 := t.alt2, w15 := t.w15, sr := t.sr, intcon1 := t.intcon1
        free := t.free, log := t.log } := by
  rw [State.finish_detected (a := false) h.log h.flags nofun] at hrun
  obtain ⟨hregs, hipl, w, alt1, alt2, w15, sr, free, rfl⟩ := h
  refine ⟨_, hrun, fun _ => rfl, hregs, hipl, stackFlag_detected rfl ?_, State.quiet_detected rfl, rfl⟩
  rw [Bool.or_eq_true, State.leftBelow_iff, hP, ← hQ]
  rfl

end State.RegsOnly

/-! ### Instructions that write data memory -/

/-- State `x` differs from `s` as an instruction that writes data memory may, its stack errors apart: in that memory, in SR outside
IPL, in the draw count and in an empty log. -/
structure State.MemoryOnly (s x : State) : Prop where
  ipl : x.sr &&& 0x00E0 = s.sr &&& 0x00E0
  shape : ∃ ram sr free, x = { s with ram := ram, sr := sr, free := free, log := {} }

namespace State.MemoryOnly

variable {s x : State}

theorem fresh (s : State) : s.MemoryOnly s.fresh := ⟨rfl, _, _, _, rfl⟩

theorem draw (h : s.MemoryOnly x) : s.MemoryOnly x.draw := by
  obtain ⟨hipl, ram, sr, free, rfl⟩ := h
  exact ⟨hipl, _, _, _, rfl⟩

theorem execFlags (h : s.MemoryOnly x) : s.MemoryOnly x.execFlags := by
  obtain ⟨hipl, ram, sr, free, rfl⟩ := h
  exact ⟨(execFlags_ipl _ _).trans hipl, _, _, _, rfl⟩

theorem setRamByte {a : Word} {v : Byte} (h : s.MemoryOnly x) : s.MemoryOnly (x.setRamByte a v) := by
  obtain ⟨hipl, ram, sr, free, rfl⟩ := h
  exact ⟨hipl, _, _, _, rfl⟩

theorem setRamWord {a v : Word} (h : s.MemoryOnly x) : s.MemoryOnly (x.setRamWord a v) := h.setRamByte.setRamByte

theorem log (h : s.MemoryOnly x) : x.log = {} := by
  obtain ⟨-, ram, sr, free, rfl⟩ := h
  rfl

theorem flags (h : s.MemoryOnly x) : x.intcon1 = s.intcon1 := by
  obtain ⟨-, ram, sr, free, rfl⟩ := h
  rfl

/-- How an instruction ends that writes data memory through register `w`: `k` is whether the checks of the pointer fail. -/
theorem result {i : Instr} {w : WReg} {k : Bool} {P : Prop} (h : s.MemoryOnly x)
    (hrun : exec i s = .next (s.fresh.finish (w.val == 15) (x.detected false k)))
    (hP : k = true ∨ (w.val = 15 ∧ s.w15 < 0x1000) ↔ P) :
    ∃ t, exec i s = .next t ∧ (∀ a, t.ramByte a = x.ramByte a) ∧ t.sr &&& 0x00E0 = s.sr &&& 0x00E0 ∧
      stackFlag s.intcon1 t.intcon1 P ∧
      t.quiet ∧ t = { s with
        pc := s.pc + 2, ram := t.ram, sr := t.sr, intcon1 := t.intcon1, free := t.free, log := t.log } := by
  rw [State.finish_detected (a := false) h.log h.flags nofun] at hrun
  obtain ⟨hipl, ram, sr, free, rfl⟩ := h
  refine ⟨_, hrun, fun _ => rfl, hipl, stackFlag_detected rfl ?_, State.quiet_detected rfl, rfl⟩
  rw [← hP]
  simp

end State.MemoryOnly

/-! ### Bit manipulations -/

section
variable {s : State} {size : Size} {bit : Fin 16} {w : WReg}

theorem exec_bitManip_direct (size : Size) (bit : Fin 16) (w : WReg) (s : State) : exec (.bitManip size bit (.direct w)) s =
    .next (s.fresh.finish false
      (((s.fresh.writeW w (setBit (s.readW w) bit.val (Config.freeBool s.free))).draw.execFlags).detected false false)) := by
  rw [State.detected_none]
  rfl

/-- A bit manipulation through an even address of an operand that can be written (R93). -/
theorem exec_bitManip_good (heven : (s.readW w).getLsbD 0 = false) (hgood : s.badAccess size (s.readW w) = false) :
    exec (.bitManip size bit (.indirect w)) s =
      andThen ((s.fresh.draw.execFlags.detected false (s.pointerStk w false)).storeBit (s.readW w) bit (Config.freeBool s.free))
        fun t => .next (s.fresh.finish (w.val == 15) t) := by
  have heven' : s.fresh.oddIndirect (.indirect w) = false := heven
  have hgood' : s.fresh.badRead size (.indirect w) = false := hgood
  change execBitManip size bit (.indirect w) s = _
  simp only [execBitManip, heven', hgood', Bool.false_eq_true, if_false,
    State.operandCheck_through (Operand.through_indirect w), State.detected_draw, State.detected_execFlags]
  rfl

theorem State.detected_storeBit_ram {a k b : Bool} {ea : Word} (h : s.dev.sfrAt ea = none) :
    (s.detected a k).storeBit ea bit b = .next ((s.setRamByte (bitByteAddr ea bit)
      (lowByte (setBit ((s.ramByte (bitByteAddr ea bit)).zeroExtend 16) (bit.val % 8) b))).detected a k) := by
  have h' : (s.detected a k).dev.sfrAt ea = none := h
  rw [State.storeBit, h']
  rfl

/-- A bit written to data memory is that bit of its byte, and no other bit of any byte (R93). -/
theorem State.getLsbD_ramByte_storeBit (ea a : Word) (b : Bool) {i : Nat} (hi : i < 8) :
    ((s.setRamByte (bitByteAddr ea bit)
      (lowByte (setBit ((s.ramByte (bitByteAddr ea bit)).zeroExtend 16) (bit.val % 8) b))).ramByte a).getLsbD i =
      if a = bitByteAddr ea bit ∧ i = bit.val % 8 then b else (s.ramByte a).getLsbD i := by
  have hi16 : i < 16 := by omega
  rw [State.ramByte_setRamByte]
  by_cases ha : a = bitByteAddr ea bit
  · simp [← ha, lowByte, hi, hi16, eq_comm (a := i)]
  · simp [ha]

/-- A software write of a special function register ends, but for one of INTCON2 (D11). -/
theorem State.exists_writeSfr {r : Sfr} (hr : r ≠ .intcon2) (mask value : Word) : ∃ t, s.writeSfr r mask value = .next t := by
  cases r with
  | intcon2 => exact absurd rfl hr
  | _ => exact ⟨_, rfl⟩

/-- What sets STKERR in an access of one word through `w` that leaves W15 (R99, R133). -/
theorem State.pointerStk_word : s.pointerStk w false = true ∨ (w.val = 15 ∧ s.w15 < 0x1000) ↔
    w.val = 15 ∧ (s.overLimit s.w15 ∨ s.w15 < 0x1000) := by
  rw [State.pointerStk_iff]
  simp [State.pointerFails, and_or_left]

/-! ### MOV.D -/

/-- An even address of the second word wraps from 0xFFFE alone (R99). -/
theorem State.pointerStk_two (heven : (s.readW w).getLsbD 0 = false) : s.pointerStk w true = true ↔
    w.val = 15 ∧ (s.overLimit s.w15 ∨ s.overLimit (s.w15 + 2) ∨ s.w15 = 0xFFFE) := by
  rw [State.pointerStk_iff, State.pointerFails]
  refine and_congr_right fun h15 => ?_
  rw [State.readW_of_eq_fifteen h15] at heven
  have hlast : 0xFFFE ≤ s.w15 ↔ s.w15 = 0xFFFE := by
    refine ⟨fun h => ?_, fun h => by rw [h]; decide⟩
    have hcases : s.w15 = 0xFFFE ∨ s.w15 = 0xFFFF := by bv_omega
    refine hcases.resolve_right fun hodd => ?_
    rw [hodd] at heven
    exact absurd heven (by decide)
  simp only [hlast, true_and]

theorem State.pointerStk_two_underflow (heven : (s.readW w).getLsbD 0 = false) :
    s.pointerStk w true = true ∨ (w.val = 15 ∧ s.w15 < 0x1000) ↔
      w.val = 15 ∧ (s.overLimit s.w15 ∨ s.overLimit (s.w15 + 2) ∨ s.w15 = 0xFFFE ∨ s.w15 < 0x1000) := by
  rw [State.pointerStk_two heven, ← and_or_left, or_assoc, or_assoc]

/-- STKERR is one bit of INTCON1. -/
theorem stackFlag_other {base after : Word} {P : Prop} (h : stackFlag base after P) : after &&& 0xFFFB = base &&& 0xFFFB := by
  obtain ⟨hset, hclear⟩ := h
  by_cases hP : P
  · rw [hset hP, BitVec.and_comm, BitVec.and_or_distrib_left, BitVec.and_comm]
    exact BitVec.or_zero
  · rw [hclear hP]

variable {src dst : DwOperand} {p q : Fin 8}

/-- A write of a word leaves a word none of whose bytes it is. -/
theorem State.ramWord_setRamWord_off (s : State) (a b v : Word) (h : offWord a b) (h1 : offWord a (b + 1)) :
    (s.setRamWord a v).ramWord b = s.ramWord b := by
  rw [State.ramWord, State.ramByte_setRamWord_off s a _ v h1, State.ramByte_setRamWord_off s a _ v h, State.ramWord]

theorem State.storeWord_ram {a v : Word} (h : s.dev.sfrAt a = none) : s.storeWord a v = .next (s.setRamWord a v) := by
  rw [State.storeWord, h]

/-- The two words of a double word that is stored to data memory (R94). -/
def State.doubleStored (ea lo hi : Word) (s : State) : State :=
  (s.fresh.draw.draw.execFlags.setRamWord ea lo).setRamWord (ea + 2) hi

theorem State.ramByte_doubleStored (ea lo hi b : Word) (h : offWord ea b) (h2 : offWord (ea + 2) b) :
    (s.doubleStored ea lo hi).ramByte b = s.ramByte b := by
  rw [State.doubleStored, State.ramByte_setRamWord_off _ _ b hi h2, State.ramByte_setRamWord_off _ ea b lo h,
    State.execFlags_ramByte, State.draw_ramByte, State.draw_ramByte, State.fresh_ramByte]

theorem State.ramWord_doubleStored (ea lo hi : Word) :
    (s.doubleStored ea lo hi).ramWord ea = lo ∧ (s.doubleStored ea lo hi).ramWord (ea + 2) = hi := by
  refine ⟨?_, State.ramWord_setRamWord ..⟩
  refine (State.ramWord_setRamWord_off _ _ ea hi ⟨?_, ?_⟩ ⟨?_, ?_⟩).trans (State.ramWord_setRamWord _ ea lo) <;> bv_omega

theorem pairLow_ne_pairHigh (p : Fin 8) : pairLow p ≠ pairHigh p := fun h => by
  have hval := congrArg Fin.val h
  simp only [pairLow, pairHigh] at hval
  omega

/-- A MOV.D of which no access raises the address error: `k` is whether the checks of its pointer fail (R94). -/
theorem exec_movD_good {k : Bool} (hcheck : (s.fresh.dwCheck src).dwCheck dst = s.fresh.detected false k)
    (hsrc : s.dwBad src s.dsrpag = false) (hdst : s.dwBad dst s.dswpag = false) : exec (.movD src dst) s =
      andThen ((s.fresh.draw.draw.execFlags.detected false k).dwStore dst (s.dwValue src).1 (s.dwValue src).2) fun t =>
        .next (s.fresh.finish (DwOperand.usesW15 src || DwOperand.usesW15 dst) t) := by
  have hgood : (s.fresh.dwBad src s.fresh.dsrpag || s.fresh.dwBad dst s.fresh.dswpag) = false :=
    Bool.or_eq_false_iff.mpr ⟨hsrc, hdst⟩
  change execMovD src dst s = _
  simp only [execMovD, hcheck, hgood, Bool.false_and, Bool.false_eq_true, if_false, State.detected_draw, State.detected_execFlags]
  rfl

/-- A pair of registers written. -/
def State.pairWritten (q : Fin 8) (lo hi : Word) (s : State) : State :=
  (s.fresh.draw.draw.execFlags.writeW (pairLow q) lo).writeW (pairHigh q) hi

theorem State.regsOnly_pairWritten (q : Fin 8) (lo hi : Word) : s.RegsOnly [pairLow q, pairHigh q] (s.pairWritten q lo hi) :=
  ((State.RegsOnly.fresh s _).draw.draw.execFlags.writeW (by simp)).writeW (by simp)

theorem State.readW_pairWritten (q : Fin 8) (lo hi : Word) :
    (s.pairWritten q lo hi).readW (pairLow q) = lo ∧ (s.pairWritten q lo hi).readW (pairHigh q) = hi := by
  constructor
  · rw [State.pairWritten, State.readW_writeW, if_neg (pairLow_ne_pairHigh q), State.readW_writeW, if_pos rfl]
  · rw [State.pairWritten, State.readW_writeW, if_pos rfl]

/-- A MOV.D to a register pair (R94). -/
theorem exec_movD_pair {k : Bool} (hcheck : s.fresh.dwCheck src = s.fresh.detected false k)
    (hsrc : s.dwBad src s.dsrpag = false) : exec (.movD src (.pair q)) s = .next (s.fresh.finish (DwOperand.usesW15 src)
      ((s.pairWritten q (s.dwValue src).1 (s.dwValue src).2).detected false k)) := by
  rw [exec_movD_good hcheck hsrc rfl, State.dwStore, State.detected_writeW, State.detected_writeW, andThen_next,
    show DwOperand.usesW15 (.pair q) = false from rfl, Bool.or_false]
  rfl

/-- A MOV.D to memory through a W register of which no access raises the address error (R94). -/
theorem exec_movD_store_good (hlo : s.badAccess .word (s.readW w) = false) (hhi : s.badAccess .word (s.readW w + 2) = false) :
    exec (.movD (.pair p) (.indirect w)) s =
      andThen ((s.fresh.draw.draw.execFlags.detected false (s.pointerStk w true)).storeWord (s.readW w) (s.readW (pairLow p)))
        fun t => andThen (t.storeWord (s.readW w + 2) (s.readW (pairHigh p))) fun u =>
          .next (s.fresh.finish (w.val == 15) u) := by
  have hdst : s.dwBad (.indirect w) s.dswpag = false := Bool.or_eq_false_iff.mpr ⟨hlo, hhi⟩
  have hcheck : (s.fresh.dwCheck (.pair p)).dwCheck (.indirect w) = s.fresh.detected false (s.pointerStk w true) :=
    State.dwCheck_through (DwOperand.through_indirect w)
  have hread : (s.fresh.draw.draw.execFlags.detected false (s.pointerStk w true)).readW w = s.readW w := by simp
  have hused : (DwOperand.usesW15 (.pair p) || DwOperand.usesW15 (.indirect w)) = (w.val == 15) := Bool.false_or _
  rw [exec_movD_good hcheck rfl hdst, hused, State.dwStore, hread, andThen_assoc]
  rfl

/-- A MOV.D to data memory (R94). -/
theorem exec_movD_ram (hlo : s.ramWordAt (s.readW w)) (hhi : s.ramWordAt (s.readW w + 2)) :
    exec (.movD (.pair p) (.indirect w)) s = .next (s.fresh.finish (w.val == 15)
      ((s.doubleStored (s.readW w) (s.readW (pairLow p)) (s.readW (pairHigh p))).detected false (s.pointerStk w true))) := by
  rw [exec_movD_store_good hlo.1 hhi.1, State.storeWord_ram (by simpa using hlo.2), andThen_next,
    State.storeWord_ram (by simpa using hhi.2), State.detected_setRamWord, State.detected_setRamWord]
  rfl

end

/-! ### TBLRDx -/

theorem exec_tblrd (ptr dst : WReg) (s : State) : exec (.tblrd ptr dst) s = .next (s.fresh.finish (ptr.val == 15)
    ((s.fresh.writeW dst (Config.freeWord s.free)).draw.execFlags.detected false (s.pointerStk ptr false))) := by
  have hcheck : s.fresh.pointerCheck ptr (s.fresh.readW ptr) false = s.fresh.detected false (s.pointerStk ptr false) :=
    State.pointerCheck_word s.fresh ptr
  change execTblrd ptr dst s = _
  simp only [execTblrd, hcheck, State.detected_writeW, State.detected_draw, State.detected_execFlags, State.detected_free]
  rfl

end Sys2Proof.Machine

namespace Sys2Proof.Proofs

open Sys2Proof Sys2Proof.Machine

/-- Settles O39. -/
theorem bitManipulationResult : Obligations.BitManipulationResult := by
  intro s size bit w
  refine ⟨?_, fun heven hgood hram => ?_, fun heven hgood ⟨r, hr, hne⟩ => ?_⟩
  · have hx : s.RegsOnly [w] (s.fresh.writeW w (setBit (s.readW w) bit.val (Config.freeBool s.free))).draw.execFlags :=
      ((State.RegsOnly.fresh s _).writeW (by simp)).draw.execFlags
    obtain ⟨t, hrun, hread, hregs, hsr, hflag, hquiet, hframe⟩ :=
      hx.result (exec_bitManip_direct size bit w s) Bool.false_eq_true.to_iff Bool.false_eq_true.to_iff
    refine ⟨t, Config.freeBool s.free, hrun, (hread w).trans ?_, hregs, hsr, by rwa [false_or] at hflag, hquiet, hframe⟩
    rw [State.execFlags_readW, State.draw_readW, State.readW_writeW, if_pos rfl]
  · have hrun := exec_bitManip_good (bit := bit) heven hgood
    rw [State.detected_storeBit_ram (s := s.fresh.draw.execFlags) hram, andThen_next] at hrun
    obtain ⟨t, hrun, hbyte, hsr, hflag, hquiet, hframe⟩ :=
      (State.MemoryOnly.fresh s).draw.execFlags.setRamByte.result hrun State.pointerStk_word
    refine ⟨t, Config.freeBool s.free, hrun, fun a i hi => ?_, hsr, hflag, hquiet, hframe⟩
    rw [hbyte, State.getLsbD_ramByte_storeBit (s := s.fresh.draw.execFlags) (s.readW w) a _ hi, State.execFlags_ramByte,
      State.draw_ramByte, State.fresh_ramByte, bitByteAddr]
  · obtain ⟨t, ht⟩ : ∃ t, (s.fresh.draw.execFlags.detected false (s.pointerStk w false)).storeBit (s.readW w) bit
        (Config.freeBool s.free) = .next t := by
      have hr' : (s.fresh.draw.execFlags.detected false (s.pointerStk w false)).dev.sfrAt (s.readW w) = some r := by simpa using hr
      rw [State.storeBit, hr']
      exact State.exists_writeSfr hne _ _
    exact ⟨_, by rw [exec_bitManip_good heven hgood, ht, andThen_next]⟩

/-- A MOV.D to a register pair (O40): `P` is that the checks of its pointer fail. -/
theorem movDPairResult {s : State} {src : DwOperand} {q : Fin 8} {k : Bool} {P Q : Prop}
    (hcheck : s.fresh.dwCheck src = s.fresh.detected false k) (hsrc : s.dwBad src s.dsrpag = false) (hP : k = true ↔ P)
    (hQ : DwOperand.usesW15 src = true ↔ Q) :
    ∃ t, exec (.movD src (.pair q)) s = .next t ∧
      t.readW (pairLow q) = (s.dwValue src).1 ∧ t.readW (pairHigh q) = (s.dwValue src).2 ∧
      s.onlyRegs t [pairLow q, pairHigh q] ∧ t.sr &&& 0x00E0 = s.sr &&& 0x00E0 ∧
      stackFlag s.intcon1 t.intcon1 (P ∨ s.leftBelow Q t) ∧
      t.quiet ∧ t = { s with
        pc := s.pc + 2, w := t.w, alt1 := t.alt1, alt2 := t.alt2, w15 := t.w15, sr := t.sr, intcon1 := t.intcon1
        free := t.free, log := t.log } := by
  obtain ⟨t, hrun, hread, hresult⟩ := (State.regsOnly_pairWritten q _ _).result (exec_movD_pair hcheck hsrc) hP hQ
  have ⟨hlo, hhi⟩ := State.readW_pairWritten (s := s) q (s.dwValue src).1 (s.dwValue src).2
  exact ⟨t, hrun, (hread _).trans hlo, (hread _).trans hhi, hresult⟩

/-- Settles O40. -/
theorem movDResult : Obligations.MovDResult := by
  intro s p q w
  refine ⟨⟨rfl, rfl⟩, ?_, fun hlo hhi => ?_, fun hlo hhi => ?_, fun hpage heven => ?_⟩
  · have h := movDPairResult (src := .pair p) (q := q) (k := false) (State.detected_none s.fresh).symm rfl
      Bool.false_eq_true.to_iff Bool.false_eq_true.to_iff
    simp only [false_or] at h
    exact h
  · have hsrc : s.dwBad (.indirect w) s.dsrpag = false := Bool.or_eq_false_iff.mpr ⟨hlo, hhi⟩
    have hval : s.dwValue (.indirect w) = (s.loadWord (s.readW w), s.loadWord (s.readW w + 2)) :=
      if_neg (Bool.eq_false_iff.mp hsrc)
    have h := movDPairResult (q := q) (State.dwCheck_through (DwOperand.through_indirect w)) hsrc
      (State.pointerStk_two (State.even_of_word hlo)) beq_iff_eq
    rwa [hval] at h
  · have heven : (s.readW w).getLsbD 0 = false := State.even_of_word hlo.1
    obtain ⟨t, hrun, hbyte, hresult⟩ :=
      (State.MemoryOnly.fresh s).draw.draw.execFlags.setRamWord.setRamWord.result (exec_movD_ram (p := p) hlo hhi)
        (State.pointerStk_two_underflow heven)
    have ⟨hwlo, hwhi⟩ := State.ramWord_doubleStored (s := s) (s.readW w) (s.readW (pairLow p)) (s.readW (pairHigh p))
    refine ⟨t, hrun, ?_, ?_, fun b hb hb2 => (hbyte b).trans (State.ramByte_doubleStored _ _ _ b hb hb2), hresult⟩
    · rw [State.ramWord, hbyte, hbyte]; exact hwlo
    · rw [State.ramWord, hbyte, hbyte]; exact hwhi
  · have hsrc : s.dwBad (.paged w) s.dsrpag = false := Bool.or_eq_false_iff.mpr ⟨beq_eq_false_iff_ne.mpr hpage, heven⟩
    obtain ⟨t, hrun, -, -, hregs, hsr, hflag, hquiet, hframe⟩ :=
      movDPairResult (q := q) (State.dwCheck_through (DwOperand.through_paged w)) hsrc Iff.rfl beq_iff_eq
    exact ⟨t, hrun, hregs, hsr, stackFlag_other hflag, hquiet, hframe⟩

/-- Settles O41. -/
theorem tableReadResult : Obligations.TableReadResult := by
  intro s ptr dst
  have hx : s.RegsOnly [dst] (s.fresh.writeW dst (Config.freeWord s.free)).draw.execFlags :=
    ((State.RegsOnly.fresh s _).writeW (by simp)).draw.execFlags
  obtain ⟨t, hrun, -, hresult⟩ := hx.result (exec_tblrd ptr dst s) (P := ptr.val = 15 ∧ s.overLimit s.w15)
    (by rw [State.pointerStk_iff]; simp [State.pointerFails]) beq_iff_eq
  exact ⟨t, hrun, hresult⟩

end Sys2Proof.Proofs
end

section
/-! SUPPORT. Calls, links and unlinks over a stack in data memory (R60, R91, R99, R133), and the statement about them (O43). -/

namespace Sys2Proof.Machine

open Sys2Proof

/-! ### Pushes of two words -/

/-- A call's two words pushed onto data memory in the terms of `State.detected` (R60, R133). -/
theorem State.pushPair_ram_detected {s : State} (lo hi : Word) (h : s.framePushable) :
    ∃ m, s.pushPair lo hi = .next (({ s with w15 := s.w15 + 4, ram := m } : State).detected false
        (s.pastLimit s.w15 || s.pastLimit (s.w15 + 2)))
      ∧ State.ramWord { s with ram := m } s.w15 = lo ∧ State.ramWord { s with ram := m } (s.w15 + 2) = hi
      ∧ ∀ b, offWord s.w15 b → offWord (s.w15 + 2) b → State.ramByte { s with ram := m } b = s.ramByte b := by
  obtain ⟨t1, t2, hpush1, hpush2, he, hword1, hword2, hoff⟩ := State.push_frame lo hi h
  have hseed : t2.ramSeed = s.ramSeed := by rw [he]
  have hbyte (b : Word) : State.ramByte { s with ram := t2.ram } b = t2.ramByte b := by
    simp only [State.ramByte, hseed]
  refine ⟨t2.ram, ?_, ?_, ?_, fun b hb hb2 => (hbyte b).trans (hoff b hb hb2)⟩
  · rw [State.pushPair_of_ram lo hi h, hpush1, andThen_next, hpush2]
    refine congrArg _ (he.trans ?_)
    rw [← Bool.or_self false, ← State.detected_detected]
    simp [State.detected, State.pastLimit, Bool.or_assoc, BitVec.or_assoc, Bool.or_comm, BitVec.or_comm]
  · rw [← hword1, State.ramWord, State.ramWord, hbyte, hbyte]
  · rw [← hword2, State.ramWord, State.ramWord, hbyte, hbyte]

/-! ### Calls -/

/-- The frame words of a call hold the address after it (R91, R99). -/
theorem call_words (back : PAddr) (v : Word) :
    (back.extractLsb' 1 15 ++ v.extractLsb' 0 1 : Word).extractLsb' 1 15 = back.extractLsb' 1 15 ∧
    (v.extractLsb' 7 9 ++ back.extractLsb' 16 7 : Word).extractLsb' 0 7 = back.extractLsb' 16 7 := by
  constructor
  · rw [BitVec.extractLsb'_append_eq_left]
  · rw [BitVec.extractLsb'_append_eq_right]

/-- An even address of the lower half of program space is what its two frame words hold. -/
theorem framePc_of_slices {pc : PAddr} {w0 w1 : Word} (h0 : w0.extractLsb' 1 15 = pc.extractLsb' 1 15)
    (h1 : w1.extractLsb' 0 7 = pc.extractLsb' 16 7) (heven : pc.getLsbD 0 = false) (hlow : pc.getLsbD 23 = false) :
    framePc w0 w1 = pc := by
  rw [framePc, h0, h1]
  apply BitVec.eq_of_getLsbD_eq
  intro i hi
  simp only [BitVec.getLsbD_append, BitVec.getLsbD_extractLsb']
  interval_cases i <;> simp_all

/-! ### Calls, links and unlinks -/

section
variable {s x : State}

/-- A call over a stack in data memory (R99). -/
theorem exec_call (target : BitVec 23) (h : s.framePushable) : ∃ m sfa k,
    exec (.w15Access (.call target)) s = .next
      (({ s with
        pc := target.zeroExtend 24, w15 := s.w15 + 4, ram := m, corcon := setBit s.corcon 2 sfa, free := s.free + 1
        log := {} } : State).detected false k) ∧
    (k = true ↔ s.overLimit s.w15 ∨ s.overLimit (s.w15 + 2) ∨ s.w15 + 4 < 0x1000) ∧
    (State.ramWord { s with ram := m } s.w15).extractLsb' 1 15 = (s.pc + 2).extractLsb' 1 15 ∧
    (State.ramWord { s with ram := m } (s.w15 + 2)).extractLsb' 0 7 = (s.pc + 2).extractLsb' 16 7 ∧
    ∀ b, offWord s.w15 b → offWord (s.w15 + 2) b → State.ramByte { s with ram := m } b = s.ramByte b := by
  obtain ⟨lo, hi, sfa, hcall, hlo, hhi⟩ : ∃ lo hi sfa,
      exec (.w15Access (.call target)) s = (andThen (s.fresh.draw.pushPair lo hi) fun t =>
        .next ((((t.setSfa sfa).setPc (target.zeroExtend 24)).underflowCheck).settle s.cpuIpl)) ∧
      lo.extractLsb' 1 15 = (s.pc + 2).extractLsb' 1 15 ∧ hi.extractLsb' 0 7 = (s.pc + 2).extractLsb' 16 7 :=
    ⟨_, _, _, rfl, (call_words (s.pc + 2) (Config.freeWord s.free)).1, (call_words (s.pc + 2) (Config.freeWord s.free)).2⟩
  obtain ⟨m, hpush, hword1, hword2, hoff⟩ := State.pushPair_ram_detected (s := s.fresh.draw) lo hi
    ⟨(State.ramWordAt_congr rfl _).mpr h.1, (State.ramWordAt_congr rfl _).mpr h.2⟩
  refine ⟨m, sfa, s.pastLimit s.w15 || s.pastLimit (s.w15 + 2) || decide (s.w15 + 4 < 0x1000), ?_, ?_,
    (congrArg _ hword1).trans hlo, (congrArg _ hword2).trans hhi, hoff⟩
  · rw [hcall, hpush, andThen_next, State.detected_setSfa, State.detected_setPc, State.underflowCheck_detected,
      State.detected_detected, Bool.or_false, State.settle_detected_stk]
    · rfl
    · rfl
  · rw [Bool.or_eq_true, Bool.or_eq_true, State.pastLimit_iff, State.pastLimit_iff, decide_eq_true_eq, or_assoc]

/-- A link over a stack in data memory (R99). -/
theorem exec_link (lit14 : BitVec 14) (h : s.ramWordAt s.w15) : ∃ m sfa,
    exec (.w15Access (.link lit14)) s = .next (s.fresh.finishStack
      (((((({ s with ram := m } : State).fresh.draw.writeW 15 (s.w15 + 2)).writeW 14 (s.w15 + 2)).writeW 15
        (s.w15 + 2 + lit14.zeroExtend 16)).setSfa sfa).detected false (s.pastLimit s.w15))) ∧
    State.ramWord { s with ram := m } s.w15 = s.readW 14 ∧
    ∀ b, offWord s.w15 b → State.ramByte { s with ram := m } b = s.ramByte b := by
  obtain ⟨sfa, hlink⟩ : ∃ sfa, exec (.w15Access (.link lit14)) s = andThen (s.fresh.draw.push16 (s.readW 14)) fun t =>
      .next (s.fresh.finishStack (((t.writeW 14 t.w15).writeW 15 (t.w15 + lit14.zeroExtend 16)).setSfa sfa)) := ⟨_, rfl⟩
  obtain ⟨m, hpush, hword, hoff⟩ := State.push16_ram_detected (s := s.fresh.draw) (s.readW 14) h
  refine ⟨m, sfa, ?_, hword, hoff⟩
  rw [hlink, hpush, andThen_next, State.detected_w15, State.detected_writeW, State.detected_writeW, State.detected_setSfa]
  rfl

/-- An unlink whose W14 is in a stack that can be read (R99). -/
theorem exec_unlink (h : s.badAccess .word (s.readW 14 - 2) = false) : ∃ sfa,
    exec (.w15Access .unlink) s = .next (s.fresh.finishStack
      (((((s.fresh.writeW 15 (s.readW 14 - 2)).writeW 14 (s.loadWord (s.readW 14 - 2))).draw).setSfa sfa).detected false
        (s.pastLimit (s.readW 14 - 2)))) := by
  obtain ⟨sfa, hunlink⟩ : ∃ sfa, exec (.w15Access .unlink) s =
      .next (s.fresh.finishStack ((((s.fresh.writeW 15 (s.readW 14)).pop16.writeW 14
        (s.fresh.writeW 15 (s.readW 14)).popValue).draw).setSfa sfa)) := ⟨_, rfl⟩
  have hpop : (s.fresh.writeW 15 (s.readW 14)).pop16 =
      (s.fresh.writeW 15 (s.readW 14 - 2)).detected false (s.pastLimit (s.readW 14 - 2)) :=
    (State.pop16_detected _).trans (if_neg (Bool.eq_false_iff.mp h))
  have hval : (s.fresh.writeW 15 (s.readW 14)).popValue = s.loadWord (s.readW 14 - 2) :=
    (State.pop16_good (s := s.fresh.writeW 15 (s.readW 14)) h).2
  refine ⟨sfa, ?_⟩
  rw [hunlink, hpop, hval, State.detected_writeW, State.detected_draw, State.detected_setSfa]

/-- How a link or an unlink ends that leaves memory `m`: `k` is whether the checks of its accesses fail. -/
theorem State.FrameOnly.result {m : Memory} {i : Instr} {k : Bool} {P : Prop} (h : ({ s with ram := m } : State).FrameOnly x)
    (hrun : exec i s = .next (s.fresh.finishStack (x.detected false k))) (hpc : x.pc = s.pc) (hP : k = true ↔ P) :
    ∃ t, exec i s = .next t ∧ t.w15 = x.w15 ∧ t.readW 14 = x.readW 14 ∧ s.onlyRegs t [14, 15] ∧
      (∀ b, t.ramByte b = State.ramByte { s with ram := m } b) ∧ t.corcon &&& 0xFFFB = s.corcon &&& 0xFFFB ∧
      stackFlag s.intcon1 t.intcon1 (P ∨ t.w15 < 0x1000) ∧
      t.quiet ∧ t = { s with
        pc := s.pc + 2, w := t.w, alt1 := t.alt1, alt2 := t.alt2, w15 := t.w15, ram := m, corcon := t.corcon
        intcon1 := t.intcon1, free := t.free, log := t.log } := by
  have hflags : x.intcon1 = s.intcon1 := h.flags
  rw [State.finishStack_detected (a := false) h.log hflags nofun] at hrun
  obtain ⟨hregs, hcorcon, pc, w, alt1, alt2, w15, corcon, free, rfl⟩ := h
  cases hpc
  refine ⟨_, hrun, rfl, rfl, hregs, fun _ => rfl, hcorcon, stackFlag_detected rfl ?_, State.quiet_detected rfl, rfl⟩
  rw [Bool.or_eq_true, hP, decide_eq_true_eq]
  rfl

end

end Sys2Proof.Machine

namespace Sys2Proof.Proofs

open Sys2Proof Sys2Proof.Machine

/-- The part of O43 about a call: it ends in a state from which RETURN brings its address back. -/
theorem callResult (s : State) (target : BitVec 23) (h : s.framePushable) :
    ∃ t, exec (.w15Access (.call target)) s = .next t ∧ t.pc = target.zeroExtend 24 ∧ t.w15 = s.w15 + 4 ∧
      (t.ramWord s.w15).extractLsb' 1 15 = (s.pc + 2).extractLsb' 1 15 ∧
      (t.ramWord (s.w15 + 2)).extractLsb' 0 7 = (s.pc + 2).extractLsb' 16 7 ∧
      (∀ b, offWord s.w15 b → offWord (s.w15 + 2) b → t.ramByte b = s.ramByte b) ∧
      t.corcon &&& 0xFFFB = s.corcon &&& 0xFFFB ∧
      stackFlag s.intcon1 t.intcon1 (s.overLimit s.w15 ∨ s.overLimit (s.w15 + 2) ∨ t.w15 < 0x1000) ∧
      t.quiet ∧ t = { s with
        pc := t.pc, w15 := t.w15, ram := t.ram, corcon := t.corcon, intcon1 := t.intcon1, free := t.free
        log := t.log } ∧
      ((s.pc + 2).getLsbD 0 = false → (s.pc + 2).getLsbD 23 = false →
        ∃ u, exec .ret t = .next u ∧ u.pc = s.pc + 2 ∧ u.w15 = s.w15) := by
  obtain ⟨m, sfa, k, hrun, hk, hlo, hhi, hoff⟩ := exec_call target h
  refine ⟨_, hrun, rfl, rfl, hlo, hhi, hoff, setBit_and_of_unselected (by decide), stackFlag_detected rfl hk,
    State.quiet_detected rfl, rfl, fun heven hlow => ?_⟩
  · generalize ht : State.detected false _ _ = t
    have hsp : t.w15 = s.w15 + 4 := by rw [← ht]; rfl
    have hword (a : Word) : t.ramWord a = State.ramWord { s with ram := m } a := by rw [← ht]; rfl
    have hdev : t.dev = s.dev := by rw [← ht]; rfl
    have hfirst : t.w15 - 2 = s.w15 + 2 := by rw [hsp]; bv_omega
    have hsecond : t.w15 - 4 = s.w15 := by rw [hsp]; bv_omega
    obtain ⟨u, hret, hsp', hpc, -⟩ := returnResult t
      ⟨hfirst ▸ (State.ramWordAt_congr hdev _).mpr h.2, hsecond ▸ (State.ramWordAt_congr hdev _).mpr h.1⟩
    refine ⟨u, hret, hpc.trans ?_, hsp'.trans hsecond⟩
    rw [hfirst, hsecond, hword, hword]
    exact framePc_of_slices hlo hhi heven hlow

/-- Settles O43. -/
theorem stackFrameResult : Obligations.StackFrameResult := by
  intro s target lit14
  refine ⟨callResult s target, fun h => ?_, fun h => ?_⟩
  · obtain ⟨m, sfa, hrun, hword, hoff⟩ := exec_link lit14 h
    obtain ⟨t, hrun, hw15, hw14, hregs, hbyte, hcorcon, hflag, hquiet, hframe⟩ :=
      State.FrameOnly.result (m := m)
        (((((State.FrameOnly.fresh _).draw.writeW (by simp)).writeW (by simp)).writeW (by simp)).setSfa) hrun
        (by simp only [State.setSfa, State.writeW_pc]; rfl) State.pastLimit_iff
    have hram : t.ram = m := congrArg State.ram hframe
    refine ⟨t, hrun, ?_, hw14.trans ?_, hw15, hregs, fun b hb => (hbyte b).trans (hoff b hb), hcorcon, hflag, hquiet, ?_⟩
    · rw [State.ramWord, hbyte, hbyte]; exact hword
    · exact (State.readW_writeW _ 15 14 _).trans (State.readW_writeW _ 14 14 _)
    · rw [hram]; exact hframe
  · obtain ⟨sfa, hrun⟩ := exec_unlink h
    obtain ⟨t, hrun, hw15, hw14, hregs, -, hcorcon, hflag, hquiet, hframe⟩ :=
      State.FrameOnly.result (m := s.ram) ((((State.FrameOnly.fresh s).writeW (by simp)).writeW (by simp)).draw.setSfa)
        hrun (State.writeW_pc ..) State.pastLimit_iff
    exact ⟨t, hrun, hw15.trans (State.w15_writeW (by decide)), hw14.trans (State.readW_writeW _ 14 14 _), hregs, hcorcon, hflag,
      hquiet, hframe⟩

end Sys2Proof.Proofs
end

section
/-! SUPPORT. Moves through W15 with a displacement and what a read of data memory or of a special function register gives (R24, R27,
R34, R52 to R58, R99, R133), and the statement about them (O44). -/

namespace Sys2Proof.Machine

open Sys2Proof

/-! ### Moves through W15 with a displacement -/

/-- The overflow or the wrap check of a move through W15 fails (R99, R133). -/
def State.moveStk (s : State) (disp : Word) : Bool := s.pastLimit (s.w15 + disp) || s.stackCarry disp

theorem State.moveStk_iff {s : State} {disp : Word} :
    s.moveStk disp = true ↔ s.overLimit (s.w15 + disp) ∨ 0xFFFF < (s.w15.toNat : Int) + disp.toInt := by
  rw [State.moveStk, Bool.or_eq_true, State.pastLimit_iff, State.stackCarry, decide_eq_true_eq]

section
variable {s x : State} {i : Instr} {disp : Word} {r : WReg} {k : Bool} {P : Prop}

theorem exec_load_word (hgood : s.badAccess .word (s.w15 + disp) = false) :
    exec (.w15Access (.load .word disp r)) s = .next (s.fresh.finishStack
      ((s.fresh.writeW r (s.loadWord (s.w15 + disp))).detected false (s.moveStk disp))) := by
  change execW15Access (.load .word disp r) s = _
  have hgood' : s.fresh.badAccess .word (s.fresh.stackEa disp) = false := hgood
  simp only [execW15Access, State.stackLoad, State.stackCheck_detected, State.detected_badAccess, hgood', Bool.false_eq_true,
    if_false, State.detected_writeW]
  rfl

theorem exec_load_byte (hgood : s.badAccess .byte (s.w15 + disp) = false) : ∃ high : Byte,
    exec (.w15Access (.load .byte disp r)) s = .next (s.fresh.finishStack
      ((s.fresh.writeW r (high ++ s.loadByte (s.w15 + disp))).draw.detected false (s.moveStk disp))) := by
  refine ⟨highByte (Config.freeWord s.free), ?_⟩
  change execW15Access (.load .byte disp r) s = _
  have hgood' : s.fresh.badAccess .byte (s.fresh.stackEa disp) = false := hgood
  simp only [execW15Access, State.stackLoad, State.stackCheck_detected, State.detected_badAccess, hgood', Bool.false_eq_true,
    if_false, State.detected_writeW, State.detected_draw, State.detected_free]
  rfl

theorem exec_store_word (hgood : s.badAccess .word (s.w15 + disp) = false) :
    exec (.w15Access (.store .word disp r)) s =
      andThen ((s.fresh.detected false (s.moveStk disp)).storeWord (s.w15 + disp) (s.readW r)) fun t =>
        .next (s.fresh.finishStack t) := by
  change execW15Access (.store .word disp r) s = _
  have hgood' : s.fresh.badAccess .word (s.fresh.stackEa disp) = false := hgood
  simp only [execW15Access, State.stackStore, State.stackCheck_detected, State.detected_badAccess, hgood', Bool.false_eq_true,
    if_false]
  rfl

theorem exec_store_byte (hgood : s.badAccess .byte (s.w15 + disp) = false) :
    exec (.w15Access (.store .byte disp r)) s =
      andThen ((s.fresh.detected false (s.moveStk disp)).storeByte (s.w15 + disp) (lowByte (s.readW r))) fun t =>
        .next (s.fresh.finishStack t) := by
  change execW15Access (.store .byte disp r) s = _
  have hgood' : s.fresh.badAccess .byte (s.fresh.stackEa disp) = false := hgood
  simp only [execW15Access, State.stackStore, State.stackCheck_detected, State.detected_badAccess, hgood', Bool.false_eq_true,
    if_false]
  rfl

theorem State.storeByte_ram {a : Word} {v : Byte} (h : s.dev.sfrAt a = none) : s.storeByte a v = .next (s.setRamByte a v) := by
  rw [State.storeByte, h]

@[simp] theorem State.detected_setRamByte (a k : Bool) (ea : Word) (v : Byte) (s : State) :
    (s.detected a k).setRamByte ea v = (s.setRamByte ea v).detected a k := rfl

/-- How an access through W15 ends that writes working registers: `k` is whether the checks of its address fail. -/
theorem State.RegsOnly.stackResult {ds : List WReg} (h : s.RegsOnly ds x) (hsr : x.sr = s.sr)
    (hrun : exec i s = .next (s.fresh.finishStack (x.detected false k))) (hP : k = true ↔ P) :
    ∃ t, exec i s = .next t ∧ (∀ j, t.readW j = x.readW j) ∧ s.onlyRegs t ds ∧
      stackFlag s.intcon1 t.intcon1 (P ∨ t.w15 < 0x1000) ∧
      t.quiet ∧ t = { s with
        pc := s.pc + 2, w := t.w, alt1 := t.alt1, alt2 := t.alt2, w15 := t.w15, intcon1 := t.intcon1
        free := x.free, log := t.log } := by
  rw [State.finishStack_detected (a := false) h.log h.flags nofun] at hrun
  obtain ⟨hregs, -, w, alt1, alt2, w15, sr, free, rfl⟩ := h
  cases hsr
  refine ⟨_, hrun, fun _ => rfl, hregs, stackFlag_detected rfl ?_, State.quiet_detected rfl, rfl⟩
  rw [Bool.or_eq_true, hP, decide_eq_true_eq]
  rfl

/-- How a store through W15 to data memory ends that leaves memory `m`. -/
theorem stackStoreResult {m : Memory} (hrun : exec i s = .next (s.fresh.finishStack
      (({ s with ram := m, log := {} } : State).detected false k))) (hP : k = true ↔ P) :
    ∃ t, exec i s = .next t ∧ (∀ b, t.ramByte b = State.ramByte { s with ram := m, log := {} } b) ∧
      stackFlag s.intcon1 t.intcon1 (P ∨ s.w15 < 0x1000) ∧
      t.quiet ∧ t = { s with pc := s.pc + 2, ram := t.ram, intcon1 := t.intcon1, log := t.log } := by
  have hfinish := State.finishStack_detected (s := s) (x := { s with ram := m, log := {} }) (a := false) (k := k) rfl rfl nofun
  rw [hfinish] at hrun
  refine ⟨_, hrun, fun _ => rfl, stackFlag_detected rfl ?_, State.quiet_detected rfl, rfl⟩
  rw [Bool.or_eq_true, hP, decide_eq_true_eq]

end

/-! ### What a read gives -/

theorem sfrAt_eq_none_iff (d : Device) (a : Word) : d.sfrAt a = none ↔ ∀ e ∈ d.sfrAddr, e.2 ≠ a &&& 0xFFFE := by
  simp [Device.sfrAt, List.find?_eq_none]

theorem mem_sfrAddr_of_sfrAt {d : Device} {a : Word} {x : Sfr} (h : d.sfrAt a = some x) :
    (x, a &&& 0xFFFE) ∈ d.sfrAddr := by
  obtain ⟨e, hfind, rfl⟩ := Option.map_eq_some_iff.mp h
  have haddr : e.2 = a &&& 0xFFFE := by simpa using List.find?_some hfind
  rw [← haddr]
  exact List.mem_of_find?_eq_some hfind

theorem State.badAccess_byte_iff {s : State} {a : Word} :
    s.badAccess .byte a = true ↔ s.dev.dataAt a.toNat = false ∧ s.dev.sfrAt a = none := by
  simp [State.badAccess, Device.byteAt]

theorem State.badAccess_word_iff {s : State} {a : Word} : s.badAccess .word a = true ↔
    a.getLsbD 0 = true ∨ s.badAccess .byte a = true ∨ s.badAccess .byte (a + 1) = true := by
  simp only [State.badAccess, Bool.or_eq_true, or_assoc]

/-- A bank bit of a source that the device lacks reads 0 (R24). -/
theorem getLsbD_and_flagBits (v : Word) (d : Device) {k i : Nat} (hi : i < 16) :
    (v &&& d.flagBits k).getLsbD i = (d.implIrq.getLsbD (16 * k + i) && v.getLsbD i) := by
  simp [Device.flagBits, hi, Bool.and_comm]

/-- The priority field of a source reads as written, below a 0, and that of a source that the device lacks reads 0 (R24, R34). -/
theorem extractLsb'_and_priorityBits (v : Word) (d : Device) (k : Nat) (j : Fin 4) :
    (v &&& d.priorityBits k).extractLsb' (4 * j.val) 4 =
      if d.implIrq.getLsbD (4 * k + j.val) then 0#1 ++ v.extractLsb' (4 * j.val) 3 else 0 := by
  have hj := j.isLt
  have hdiv : (4 * k + j.val) / 4 = k := by omega
  have hmod : (4 * k + j.val) % 4 = j.val := by omega
  have hlow (i : Nat) (hi : i < 3) : (d.priorityBits k).getLsbD (4 * j.val + i) = d.implIrq.getLsbD (4 * k + j.val) := by
    have h := getLsbD_priorityBits d (4 * k + j.val) i hi
    rwa [hdiv, hmod] at h
  have htop : (d.priorityBits k).getLsbD (4 * j.val + 3) = false := by
    have hreserved : ∀ j : Fin 4, (0x8888 : Word).getLsbD (4 * j.val + 3) = true := by decide
    have h := congrArg (fun x => BitVec.getLsbD x (4 * j.val + 3)) (priorityBits_reserved d k)
    simp only [BitVec.getLsbD_and, hreserved, Bool.and_true] at h
    exact h.trans BitVec.getLsbD_zero
  apply BitVec.eq_of_getLsbD_eq
  intro i hi
  rw [BitVec.getLsbD_extractLsb', BitVec.getLsbD_and, apply_ite (fun x => BitVec.getLsbD x i), BitVec.getLsbD_append,
    BitVec.getLsbD_extractLsb', BitVec.getLsbD_zero]
  by_cases h3 : i < 3
  · rw [hlow i h3]
    cases d.implIrq.getLsbD (4 * k + j.val) <;> simp [hi, h3]
  · have hlast : i = 3 := by omega
    subst hlast
    simp [htop]

theorem State.sfrReads_holds (s : State) : s.sfrReads := by
  refine ⟨rfl, rfl, rfl, rfl, rfl, rfl, rfl, rfl, rfl, rfl, rfl, rfl, ?_,
    fun k i hi => ⟨getLsbD_and_flagBits _ _ hi, getLsbD_and_flagBits _ _ hi⟩, fun k j => extractLsb'_and_priorityBits ..⟩
  change s.disicnt.zeroExtend 16 = 0#2 ++ s.disicnt
  apply BitVec.eq_of_getLsbD_eq
  intro i hi
  rw [BitVec.getLsbD_append, BitVec.getLsbD_setWidth]
  by_cases h : i < 14
  · simp [h, hi]
  · simp [h, BitVec.getLsbD_of_ge s.disicnt i (by omega)]

end Sys2Proof.Machine

namespace Sys2Proof.Proofs

open Sys2Proof Sys2Proof.Machine

/-- The part of O44 about loads. -/
theorem stackLoadResult {s : State} {disp ea : Word} {r : WReg} {ovf : Prop} (hea : ea = s.w15 + disp)
    (hovf : s.moveStk disp = true ↔ ovf) :
    (s.badAccess .word ea = false →
      ∃ t, exec (.w15Access (.load .word disp r)) s = .next t ∧ t.readW r = s.loadWord ea ∧ s.onlyRegs t [r] ∧
        stackFlag s.intcon1 t.intcon1 (ovf ∨ t.w15 < 0x1000) ∧
        t.quiet ∧ t = { s with
          pc := s.pc + 2, w := t.w, alt1 := t.alt1, alt2 := t.alt2, w15 := t.w15, intcon1 := t.intcon1
          log := t.log }) ∧
    (s.badAccess .byte ea = false →
      ∃ t, exec (.w15Access (.load .byte disp r)) s = .next t ∧ (t.readW r).extractLsb' 0 8 = s.loadByte ea ∧
        s.onlyRegs t [r] ∧ stackFlag s.intcon1 t.intcon1 (ovf ∨ t.w15 < 0x1000) ∧
        t.quiet ∧ t = { s with
          pc := s.pc + 2, w := t.w, alt1 := t.alt1, alt2 := t.alt2, w15 := t.w15, intcon1 := t.intcon1
          free := t.free, log := t.log }) := by
  subst hea
  refine ⟨fun hgood => ?_, fun hgood => ?_⟩
  · obtain ⟨t, hrun, hread, hregs, hflag, hquiet, hframe⟩ :=
      ((State.RegsOnly.fresh s [r]).writeW (List.mem_singleton.mpr rfl)).stackResult (State.writeW_sr ..)
        (exec_load_word hgood) hovf
    rw [State.writeW_free] at hframe
    refine ⟨t, hrun, (hread r).trans ?_, hregs, hflag, hquiet, hframe⟩
    rw [State.readW_writeW, if_pos rfl]
  · obtain ⟨high, hrun⟩ := exec_load_byte (r := r) hgood
    obtain ⟨t, hrun, hread, hregs, hflag, hquiet, hframe⟩ :=
      ((State.RegsOnly.fresh s [r]).writeW (List.mem_singleton.mpr rfl)).draw.stackResult (State.writeW_sr ..) hrun hovf
    refine ⟨t, hrun, ?_, hregs, hflag, hquiet, ?_⟩
    · rw [hread, State.draw_readW, State.readW_writeW, if_pos rfl, BitVec.extractLsb'_append_eq_right]
    · have hfree := congrArg State.free hframe
      rw [hfree]
      exact hframe

/-- The part of O44 about stores. -/
theorem stackStoreMemoryResult {s : State} {disp ea : Word} {r : WReg} {ovf : Prop} (hea : ea = s.w15 + disp)
    (hovf : s.moveStk disp = true ↔ ovf) :
    (s.ramWordAt ea →
      ∃ t, exec (.w15Access (.store .word disp r)) s = .next t ∧ t.ramWord ea = s.readW r ∧
        t.ramByte ea = (s.readW r).extractLsb' 0 8 ∧ t.ramByte (ea + 1) = (s.readW r).extractLsb' 8 8 ∧
        (∀ b, offWord ea b → t.ramByte b = s.ramByte b) ∧
        stackFlag s.intcon1 t.intcon1 (ovf ∨ s.w15 < 0x1000) ∧
        t.quiet ∧ t = { s with pc := s.pc + 2, ram := t.ram, intcon1 := t.intcon1, log := t.log }) ∧
    (s.badAccess .byte ea = false → s.dev.sfrAt ea = none →
      ∃ t, exec (.w15Access (.store .byte disp r)) s = .next t ∧ t.ramByte ea = (s.readW r).extractLsb' 0 8 ∧
        (∀ b, b ≠ ea → t.ramByte b = s.ramByte b) ∧
        stackFlag s.intcon1 t.intcon1 (ovf ∨ s.w15 < 0x1000) ∧
        t.quiet ∧ t = { s with pc := s.pc + 2, ram := t.ram, intcon1 := t.intcon1, log := t.log }) := by
  subst hea
  refine ⟨fun ⟨hgood, hram⟩ => ?_, fun hgood hram => ?_⟩
  · have hrun := exec_store_word (r := r) hgood
    rw [State.storeWord_ram (by simpa using hram), andThen_next, State.detected_setRamWord] at hrun
    obtain ⟨t, hrun, hbyte, hresult⟩ := stackStoreResult hrun hovf
    have hword : t.ramWord (s.w15 + disp) = s.readW r := by
      rw [State.ramWord, hbyte, hbyte]
      exact State.ramWord_setRamWord s.fresh ..
    refine ⟨t, hrun, hword, ?_, ?_, fun b hb => (hbyte b).trans (State.ramByte_setRamWord_off s.fresh _ b _ hb), hresult⟩
    · rw [← hword, State.ramWord, BitVec.extractLsb'_append_eq_right]
    · rw [← hword, State.ramWord, BitVec.extractLsb'_append_eq_left]
  · have hrun := exec_store_byte (r := r) hgood
    rw [State.storeByte_ram (by simpa using hram), andThen_next, State.detected_setRamByte] at hrun
    obtain ⟨t, hrun, hbyte, hresult⟩ := stackStoreResult hrun hovf
    have hwritten (b : Word) : t.ramByte b = if b = s.w15 + disp then lowByte (s.readW r) else s.ramByte b :=
      (hbyte b).trans (State.ramByte_setRamByte s.fresh ..)
    exact ⟨t, hrun, (hwritten _).trans (if_pos rfl), fun b hb => (hwritten b).trans (if_neg hb), hresult⟩

/-- Settles O44. -/
theorem stackMoveResult : Obligations.StackMoveResult := by
  intro s disp r ea ovf hea hovf
  have hstk : s.moveStk disp = true ↔ ovf := by rw [State.moveStk_iff, hovf, hea]
  obtain ⟨hloadWord, hloadByte⟩ := stackLoadResult (r := r) hea hstk
  obtain ⟨hstoreWord, hstoreByte⟩ := stackStoreMemoryResult (r := r) hea hstk
  refine ⟨hloadWord, hloadByte, hstoreWord, hstoreByte, fun a v h => ?_, fun a => rfl, fun a h => ?_, fun a x h => ?_,
    fun a => ⟨sfrAt_eq_none_iff s.dev a, fun x => mem_sfrAddr_of_sfrAt⟩,
    fun a => ⟨State.badAccess_byte_iff, State.badAccess_word_iff⟩, s.sfrReads_holds⟩
  · rw [State.ramByte, h, Option.getD_some]
  · rw [State.loadWord, State.loadByte, h]
    exact ⟨rfl, rfl⟩
  · rw [State.loadWord, State.loadByte, h]
    exact ⟨rfl, rfl⟩

end Sys2Proof.Proofs
end

section
/-! SUPPORT. Stores, pushes, bit manipulations and MOV.D that reach a special function register (R93, R94, R98, R99), and the
statement about them (O54). -/

namespace Sys2Proof.Machine

open Sys2Proof

/-! ### The end of an access that fails no stack check -/

/-- What follows an outcome may be another thing that does the same with it. -/
theorem andThen_congr {r : Result} {f g : State → Result} (h : ∀ t, r = .next t → f t = g t) : andThen r f = andThen r g := by
  cases r with
  | next t => exact h t rfl
  | fault e => rfl
  | refused e => rfl

theorem State.underflowCheck_of_le {t : State} (h : 0x1000 ≤ t.w15) : t.underflowCheck = t := if_neg (BitVec.not_lt.mpr h)

theorem State.finishStack_of_le {s t : State} (h : 0x1000 ≤ t.w15) :
    s.fresh.finishStack t = t.advance.settle s.cpuIpl :=
  congrArg (State.settle s.cpuIpl) (State.underflowCheck_of_le (t := t.advance) h)

/-- An access that leaves W15 ends so, unless it went through a W15 below 0x1000 (R99, R133). -/
theorem State.finish_of_le {s t : State} {used : Bool} (hw15 : t.w15 = s.w15) (h : used = true → 0x1000 ≤ s.w15) :
    s.fresh.finish used t = t.advance.settle s.cpuIpl := by
  have hcheck : t.advance.underflowAfter used s.w15 = t.advance := by
    cases used with
    | false => exact if_pos ⟨rfl, hw15⟩
    | true => exact (if_neg nofun).trans (State.underflowCheck_of_le (t := t.advance) (hw15 ▸ h rfl))
  exact congrArg (State.settle s.cpuIpl) hcheck

/-! ### Software writes -/

section
variable {s x : State} {r : Sfr} {mask value : Word}

/-- SFRWRITE is the write of the register, and the end of the instruction (R98). -/
theorem exec_sfrWrite_eq (r : Sfr) (mask value : Word) (s : State) : exec (.sfrWrite r mask value) s =
    andThen (s.fresh.writeSfr r mask value) fun t => .next (t.advance.settle s.cpuIpl) := by
  change andThen (s.fresh.writeSfr r mask value) (fun t => .next (s.fresh.finish false t)) = _
  refine andThen_congr fun t ht => congrArg _ (State.finish_of_le ?_ nofun)
  rw [State.writeSfr_frame ht]
  rfl

theorem State.writeSfr_w15 {t : State} (h : s.writeSfr r mask value = .next t) : t.w15 = s.w15 := by rw [State.writeSfr_frame h]
theorem State.writeSfr_dev {t : State} (h : s.writeSfr r mask value = .next t) : t.dev = s.dev := by rw [State.writeSfr_frame h]
theorem State.writeSfr_mem {t : State} (h : s.writeSfr r mask value = .next t) : t.ram = s.ram := by rw [State.writeSfr_frame h]

theorem State.storeWord_w15 {a v : Word} {t : State} (h : s.storeWord a v = .next t) : t.w15 = s.w15 := by
  rw [State.storeWord_frame h]

/-- A word stored to a special function register (R98). -/
theorem State.storeWord_sfr {a v : Word} (h : s.dev.sfrAt a = some r) : s.storeWord a v = s.writeSfr r 0xFFFF v := by
  rw [State.storeWord, h]

/-- A byte stored to a special function register is its half of it (R52, R98). -/
theorem State.storeByte_sfr {a v : Word} (h : s.dev.sfrAt a = some r) : s.storeByte a (lowByte v) =
    if a.getLsbD 0 then s.writeSfr r 0xFF00 (v <<< 8) else s.writeSfr r 0x00FF (v &&& 0x00FF) := by
  have hhigh : (lowByte v ++ 0#8 : Word) = v <<< 8 := by
    apply BitVec.eq_of_getLsbD_eq
    intro i hi
    simp only [lowByte, BitVec.getLsbD_append, BitVec.getLsbD_shiftLeft, BitVec.getLsbD_extractLsb', BitVec.getLsbD_zero]
    by_cases h8 : i < 8
    · simp [h8]
    · simp [h8, hi]
      omega
  have hlow : (lowByte v).zeroExtend 16 = v &&& 0x00FF := by
    apply BitVec.eq_of_toNat_eq
    have hmask : v.toNat &&& 255 = v.toNat % 256 := Nat.and_two_pow_sub_one_eq_mod v.toNat 8
    simp [lowByte, hmask]
    omega
  rw [State.storeByte, h, hhigh, hlow]

/-- A write of a register but INTCON1, INTCON2 and INTCON4 detects no trap condition (R98, R102). -/
theorem State.writeSfr_log {t : State} (h1 : r ≠ .intcon1) (h2 : r ≠ .intcon2) (h4 : r ≠ .intcon4)
    (h : s.fresh.writeSfr r mask value = .next t) : ∃ load, t.log = { disiLoad := load } := by
  cases r with
  | intcon1 => exact absurd rfl h1
  | intcon2 => exact absurd rfl h2
  | intcon4 => exact absurd rfl h4
  | disicnt =>
    obtain rfl := Host.Outcome.next.inj h
    unfold State.writeDisicnt
    dsimp only
    split
    · exact ⟨false, rfl⟩
    · split
      · exact ⟨true, rfl⟩
      · exact ⟨false, rfl⟩
  | _ =>
    obtain rfl := Host.Outcome.next.inj h
    exact ⟨false, rfl⟩

/-- The end of a step that detected no trap condition (R127). -/
theorem State.settle_of_log {load : Bool} {ipl : Nat} (h : x.log = { disiLoad := load }) : x.settle ipl = x := by
  refine State.settle_of_calm ?_ (State.hardConflict_of_quiet ?_ ?_ ?_)
  · simp [State.logged, StepLog.intcon1Bits, h]
  all_goals rw [h]

/-! ### Software writes and data memory -/

/-- Data memory replaced by another. -/
def State.setRam (m : Memory) (s : State) : State := { s with ram := m }

theorem State.setIfs_setRam (m : Memory) (n : Nat) (s : State) : (s.setRam m).setIfs n = (s.setIfs n).setRam m := by
  rw [State.setIfs, State.setIfs, apply_ite (State.setRam m)]
  rfl

theorem State.polarityFlags_setRam (changed drawn : Word) (m : Memory) (ns : List Nat) (k : Nat) (s : State) :
    (s.setRam m).polarityFlags changed drawn ns k = (s.polarityFlags changed drawn ns k).setRam m := by
  induction ns generalizing s k with
  | nil => rfl
  | cons n ns ih =>
    simp only [State.polarityFlags]
    rw [State.setIfs_setRam, ← apply_ite (State.setRam m), ih]

theorem State.writeIntcon2_setRam (m : Memory) : (s.setRam m).writeIntcon2 mask value = (s.writeIntcon2 mask value).setRam m := by
  have hset : (s.setRam m).setIntcon2 mask value = (s.setIntcon2 mask value).setRam m := by
    rw [State.setIntcon2_eq, State.setIntcon2_eq]
    rfl
  rw [State.writeIntcon2_eq, State.writeIntcon2_eq, apply_ite (State.setRam m), ← State.polarityFlags_setRam, hset]
  rfl

theorem State.writeDisicnt_setRam (m : Memory) : (s.setRam m).writeDisicnt mask value = (s.writeDisicnt mask value).setRam m := by
  rw [State.writeDisicnt, State.writeDisicnt, apply_ite (State.setRam m), apply_ite (State.setRam m)]
  rfl

/-- A software write neither reads nor writes data memory (R98). -/
theorem State.writeSfr_setRam (m : Memory) : (s.setRam m).writeSfr r mask value =
    andThen (s.writeSfr r mask value) fun t => .next (t.setRam m) := by
  cases r with
  | intcon2 =>
    have hdisi : (s.setRam m).disi = s.disi := rfl
    rw [State.writeSfr, State.writeSfr, hdisi, State.writeIntcon2_setRam]
    split <;> rfl
  | disicnt => exact congrArg _ (State.writeDisicnt_setRam m)
  | _ => rfl

/-! ### Pushes -/

/-- A push to a special function register is a software write of it, and W15 goes up by 2 (R60, R98, R99). -/
theorem exec_push_sfr {src : WReg} (hsfr : s.dev.sfrAt s.w15 = some r) (hgood : s.badAccess .word s.w15 = false)
    (hlimit : ¬s.overLimit s.w15) (hlow : 0x1000 ≤ s.w15) (hhigh : s.w15 < 0xFFFE) : exec (.w15Access (.push src)) s =
      andThen (s.fresh.writeSfr r 0xFFFF (s.readW src)) fun t =>
        .next (({ t with w15 := s.w15 + 2 } : State).advance.settle s.cpuIpl) := by
  have hpush : s.fresh.push16 (s.readW src) =
      andThen (s.fresh.writeSfr r 0xFFFF (s.readW src)) fun t => .next { t with w15 := t.w15 + 2 } := by
    have hcheck : s.fresh.stackCheck s.fresh.w15 false = s.fresh := by
      have hpast : s.fresh.pastLimit s.fresh.w15 = false := Bool.eq_false_iff.mpr fun h => hlimit (State.pastLimit_iff.mp h)
      rw [State.stackCheck_detected, hpast, Bool.or_self, State.detected_none]
    have hgood' : s.fresh.badAccess .word s.fresh.w15 = false := hgood
    have hsfr' : s.fresh.dev.sfrAt s.fresh.w15 = some r := hsfr
    rw [State.push16, hcheck, State.pushStore, hgood', if_neg Bool.false_ne_true, State.storeWord_sfr hsfr']
  change andThen (s.fresh.push16 (s.readW src)) (fun t => .next (s.fresh.finishStack t)) = _
  rw [hpush, andThen_assoc]
  refine andThen_congr fun t ht => ?_
  have hw15 : t.w15 = s.w15 := State.writeSfr_w15 (s := s.fresh) ht
  rw [andThen_next, hw15, State.finishStack_of_le]
  change 0x1000 ≤ s.w15 + 2
  bv_omega

/-- A push to a special function register whose write conflicts resets the device (R127). -/
theorem conflictReset_of_push {src : WReg} {u : State}
    (hpush : exec (.w15Access (.push src)) s = andThen (s.fresh.writeSfr r 0xFFFF (s.readW src)) fun t =>
      .next (({ t with w15 := s.w15 + 2 } : State).advance.settle s.cpuIpl))
    (hwrite : s.fresh.writeSfr r 0xFFFF (s.readW src) = .next u) (hlogged : u.logged) (hconflict : u.hardConflict s.cpuIpl = true) :
    ∃ t, exec (.w15Access (.push src)) s = .next t ∧ s.conflictReset t := by
  have hsame := State.writeSfr_frame hwrite
  have hend := State.settle_of_conflict (ipl := s.cpuIpl) (s := State.advance { u with w15 := s.w15 + 2 })
    (State.logged_congr hlogged rfl rfl rfl) hconflict
  rw [hwrite, andThen_next, hend] at hpush
  refine ⟨_, hpush, State.conflictReset_deviceReset ⟨?_, ?_, ?_⟩ ?_ ?_⟩ <;> rw [hsame] <;> rfl

/-! ### Bit manipulations and MOV.D -/

/-- `ExecInstr` leaves the CPU priority (D1). -/
theorem State.execFlags_cpuIpl (s : State) : s.execFlags.cpuIpl = s.cpuIpl := by
  have hipl (x : Word) : x.extractLsb' 5 3 = (x &&& 0x00E0).extractLsb' 5 3 := by
    apply BitVec.eq_of_getLsbD_eq
    intro i hi
    have hmask : ∀ i < 3, (0x00E0 : Word).getLsbD (5 + i) = true := by decide
    simp only [BitVec.getLsbD_extractLsb', BitVec.getLsbD_and, hmask i hi, Bool.and_true]
  have hsame : s.execFlags.ipl = s.ipl := by
    rw [State.ipl, State.ipl, hipl, hipl s.sr, State.execFlags_sr, execFlags_ipl]
  rw [State.cpuIpl, State.cpuIpl, hsame]
  rfl

/-- A bit manipulation of a special function register is a software write of the one bit (R93, R98). -/
theorem exec_bitManip_sfr {size : Size} {bit : Fin 16} {w : WReg} (hsfr : s.dev.sfrAt (s.readW w) = some r)
    (heven : (s.readW w).getLsbD 0 = false) (hgood : s.badAccess size (s.readW w) = false)
    (hstack : w.val = 15 → 0x1000 ≤ s.w15 ∧ ¬s.overLimit s.w15) :
    exec (.bitManip size bit (.indirect w)) s =
      exec (.sfrWrite r (setBit 0 bit.val true) (setBit 0 bit.val (Config.freeBool s.free))) s.draw.execFlags := by
  have hstk : s.pointerStk w false = false := by
    rw [Bool.eq_false_iff, ne_eq, State.pointerStk_iff]
    rintro ⟨h15, hover | ⟨htwo, -⟩⟩
    · exact (hstack h15).2 hover
    · exact absurd htwo nofun
  have hipl : s.draw.execFlags.cpuIpl = s.cpuIpl := State.execFlags_cpuIpl s.draw
  have hstore : s.fresh.draw.execFlags.storeBit (s.readW w) bit (Config.freeBool s.free) =
      s.draw.execFlags.fresh.writeSfr r (setBit 0 bit.val true) (setBit 0 bit.val (Config.freeBool s.free)) := by
    have hsfr' : s.fresh.draw.execFlags.dev.sfrAt (s.readW w) = some r := hsfr
    rw [State.storeBit, hsfr']
    rfl
  rw [exec_bitManip_good heven hgood, hstk, State.detected_none, hstore, exec_sfrWrite_eq, hipl]
  refine andThen_congr fun t ht => congrArg _ ?_
  exact State.finish_of_le (State.writeSfr_w15 (s := s.draw.execFlags.fresh) ht) fun hused => (hstack (beq_iff_eq.mp hused)).1

/-- A software write and a write of a word of data memory may be done in either order. -/
theorem State.writeSfr_storeWord_ram {a v : Word} {f : State → Result} (h : s.dev.sfrAt a = none) :
    (andThen (s.writeSfr r mask value) fun t => andThen (t.storeWord a v) f) =
      andThen ((s.setRamWord a v).writeSfr r mask value) f := by
  have hram : s.setRamWord a v = s.setRam (s.setRamWord a v).ram := rfl
  rw [hram, State.writeSfr_setRam, andThen_assoc]
  refine andThen_congr fun t ht => ?_
  have hdev : t.dev = s.dev := State.writeSfr_dev ht
  have hmem : t.setRamWord a v = t.setRam (s.setRamWord a v).ram := by
    simp only [State.setRamWord, State.setRamByte, State.setRam, State.writeSfr_mem ht]
  rw [State.storeWord_ram (hdev ▸ h), hmem]

/-- A MOV.D to memory that fails no stack check writes its two words one after the other (R94). -/
theorem exec_movD_checked {p : Fin 8} {w : WReg}
    (hstack : w.val = 15 → 0x1000 ≤ s.w15 ∧ s.w15 < 0xFFFE ∧ ¬s.overLimit s.w15 ∧ ¬s.overLimit (s.w15 + 2))
    (hlo : s.badAccess .word (s.readW w) = false) (hhi : s.badAccess .word (s.readW w + 2) = false) :
    exec (.movD (.pair p) (.indirect w)) s =
      andThen (s.draw.draw.execFlags.fresh.storeWord (s.readW w) (s.readW (pairLow p))) fun t =>
        andThen (t.storeWord (s.readW w + 2) (s.readW (pairHigh p))) fun u => .next (u.advance.settle s.cpuIpl) := by
  have hstk : s.pointerStk w true = false := by
    rw [Bool.eq_false_iff, ne_eq, State.pointerStk_iff]
    rintro ⟨h15, hfail⟩
    obtain ⟨-, hwrap, hfirst, hsecond⟩ := hstack h15
    rcases hfail with hover | ⟨-, hover | hover⟩
    · exact hfirst hover
    · exact hsecond hover
    · exact absurd hwrap (BitVec.not_lt.mpr hover)
  have hfresh : s.fresh.draw.draw.execFlags = s.draw.draw.execFlags.fresh := rfl
  rw [exec_movD_store_good hlo hhi, hstk, State.detected_none, hfresh]
  refine andThen_congr fun t ht => andThen_congr fun u hu => congrArg _ (State.finish_of_le ?_ ?_)
  · have hw15 : t.w15 = s.w15 := (State.storeWord_w15 ht).trans rfl
    exact (State.storeWord_w15 hu).trans hw15
  · exact fun hused => (hstack (beq_iff_eq.mp hused)).1

end

end Sys2Proof.Machine

namespace Sys2Proof.Proofs

open Sys2Proof Sys2Proof.Machine

/-- The part of O54 about stores through W15. -/
theorem storeToSfr {s : State} {disp ea : Word} {src : WReg} {r : Sfr} (hea : ea = s.w15 + disp) (hsfr : s.dev.sfrAt ea = some r)
    (hlimit : ¬s.overLimit ea) (hwrap : (s.w15.toNat : Int) + disp.toInt ≤ 0xFFFF) (hlow : 0x1000 ≤ s.w15) :
    (s.badAccess .word ea = false →
      exec (.w15Access (.store .word disp src)) s = exec (.sfrWrite r 0xFFFF (s.readW src)) s) ∧
    (s.badAccess .byte ea = false → ea.getLsbD 0 = false →
      exec (.w15Access (.store .byte disp src)) s = exec (.sfrWrite r 0x00FF (s.readW src &&& 0x00FF)) s) ∧
    (s.badAccess .byte ea = false → ea.getLsbD 0 = true →
      exec (.w15Access (.store .byte disp src)) s = exec (.sfrWrite r 0xFF00 (s.readW src <<< 8)) s) := by
  subst hea
  have hstk : s.moveStk disp = false :=
    Bool.eq_false_iff.mpr fun h => (State.moveStk_iff.mp h).elim hlimit (Int.not_lt.mpr hwrap)
  have hend (mask value : Word) : (andThen (s.fresh.writeSfr r mask value) fun t => .next (s.fresh.finishStack t)) =
      exec (.sfrWrite r mask value) s := by
    rw [exec_sfrWrite_eq]
    refine andThen_congr fun t ht => ?_
    rw [State.finishStack_of_le (State.writeSfr_w15 (s := s.fresh) ht ▸ hlow)]
  have hsfr' : s.fresh.dev.sfrAt (s.w15 + disp) = some r := hsfr
  refine ⟨fun hgood => ?_, fun hgood heven => ?_, fun hgood hodd => ?_⟩
  · rw [exec_store_word hgood, hstk, State.detected_none, State.storeWord_sfr hsfr', hend]
  · rw [exec_store_byte hgood, hstk, State.detected_none, State.storeByte_sfr hsfr', heven, if_neg Bool.false_ne_true, hend]
  · rw [exec_store_byte hgood, hstk, State.detected_none, State.storeByte_sfr hsfr', hodd, if_pos rfl, hend]

/-- The part of O54 about pushes. -/
theorem pushToSfr {s : State} {src : WReg} {r : Sfr} (hsfr : s.dev.sfrAt s.w15 = some r) (hgood : s.badAccess .word s.w15 = false)
    (hlimit : ¬s.overLimit s.w15) (hlow : 0x1000 ≤ s.w15) (hhigh : s.w15 < 0xFFFE) :
    exec (.w15Access (.push src)) s =
      (andThen (s.fresh.writeSfr r 0xFFFF (s.readW src)) fun t =>
        .next ({ t with w15 := s.w15 + 2 }.advance.settle s.cpuIpl)) ∧
    (r ≠ .intcon1 → r ≠ .intcon2 → r ≠ .intcon4 →
      exec (.w15Access (.push src)) s =
        andThen (exec (.sfrWrite r 0xFFFF (s.readW src)) s) fun t => .next { t with w15 := s.w15 + 2 }) ∧
    (r = .intcon2 → (s.readW src).getLsbD 14 ≠ s.intcon2.getLsbD 14 →
      exec (.w15Access (.push src)) s = .refused .disiBitWrite) ∧
    ((r = .intcon1 ∧ (((s.readW src).getLsbD 1 = true ∧ s.intcon1.getLsbD 1 = false ∧ s.cpuIpl = 15) ∨
        ((s.readW src).getLsbD 3 = true ∧ s.intcon1.getLsbD 3 = false ∧
          (14 ≤ s.cpuIpl ∨ (s.readW src).getLsbD 1 = true)))) ∨
      ((13 ≤ s.cpuIpl ∨ s.intcon1.getLsbD 1 = true ∨ s.intcon1.getLsbD 3 = true) ∧
        ((r = .intcon2 ∧ (s.readW src).getLsbD 14 = s.intcon2.getLsbD 14 ∧ (s.readW src).getLsbD 13 = true ∧
            s.intcon2.getLsbD 13 = false) ∨
          (r = .intcon4 ∧ (s.readW src).getLsbD 0 = true ∧ s.intcon4.getLsbD 0 = false))) →
      ∃ t, exec (.w15Access (.push src)) s = .next t ∧ s.conflictReset t) := by
  have hpush := exec_push_sfr (src := src) hsfr hgood hlimit hlow hhigh
  refine ⟨hpush, fun h1 h2 h4 => ?_, fun hr hdisi => ?_, ?_⟩
  · rw [hpush, exec_sfrWrite_eq, andThen_assoc]
    refine andThen_congr fun t ht => ?_
    obtain ⟨load, hlog⟩ := State.writeSfr_log h1 h2 h4 ht
    rw [andThen_next, State.settle_of_log (x := t.advance) hlog,
      State.settle_of_log (x := State.advance { t with w15 := s.w15 + 2 }) hlog]
    rfl
  · subst hr
    have hwrite : s.fresh.writeSfr .intcon2 0xFFFF (s.readW src) = .refused .disiBitWrite :=
      if_pos (Bool.and_eq_true_iff.mpr ⟨rfl, bne_iff_ne.mpr hdisi⟩)
    rw [hpush, hwrite, andThen_refused]
  · rintro (⟨rfl, hevent⟩ | ⟨hlevel, ⟨rfl, hdisi, hset, hclear⟩ | ⟨rfl, hset, hclear⟩⟩)
    · refine conflictReset_of_push hpush rfl (State.logged_writeIntcon1 ..) ((State.hardConflict_writeIntcon1 ..).mpr ?_)
      refine hevent.imp (fun ⟨hset, hclear, hipl⟩ => ⟨⟨rfl, hset, hclear⟩, hipl⟩) fun ⟨hset, hclear, hipl⟩ => ?_
      exact ⟨⟨rfl, hset, hclear⟩, hipl.imp_right (if_pos rfl).mpr⟩
    · have hkeep : ¬((0xFFFF : Word).getLsbD 14 && (s.readW src).getLsbD 14 != s.fresh.disi) = true := by
        rw [hdisi]
        simp [State.disi]
      exact conflictReset_of_push hpush (if_neg hkeep) (State.logged_writeIntcon2 ..)
        ((State.hardConflict_writeIntcon2 ..).mpr ⟨(State.swtrapRises_iff ..).mpr ⟨rfl, hset, hclear⟩, hlevel⟩)
    · exact conflictReset_of_push hpush rfl (State.logged_writeIntcon4 ..)
        ((State.hardConflict_writeIntcon4 ..).mpr ⟨⟨rfl, hset, hclear⟩, hlevel⟩)

/-- The part of O54 about MOV.D: a software write does not touch data memory, so its order with a store there
is no matter. -/
theorem movDToSfr {s : State} {p : Fin 8} {w : WReg} {r : Sfr}
    (hstack : w.val = 15 → 0x1000 ≤ s.w15 ∧ s.w15 < 0xFFFE ∧ ¬s.overLimit s.w15 ∧ ¬s.overLimit (s.w15 + 2))
    (hlo : s.badAccess .word (s.readW w) = false) (hhi : s.badAccess .word (s.readW w + 2) = false) :
    (s.dev.sfrAt (s.readW w) = some r → s.dev.sfrAt (s.readW w + 2) = none →
      exec (.movD (.pair p) (.indirect w)) s =
        exec (.sfrWrite r 0xFFFF (s.readW (pairLow p)))
          (s.draw.draw.execFlags.setRamWord (s.readW w + 2) (s.readW (pairHigh p)))) ∧
    (s.dev.sfrAt (s.readW w) = none → s.dev.sfrAt (s.readW w + 2) = some r →
      exec (.movD (.pair p) (.indirect w)) s =
        exec (.sfrWrite r 0xFFFF (s.readW (pairHigh p)))
          (s.draw.draw.execFlags.setRamWord (s.readW w) (s.readW (pairLow p)))) ∧
    (∀ r', s.dev.sfrAt (s.readW w) = some r → s.dev.sfrAt (s.readW w + 2) = some r' →
      exec (.movD (.pair p) (.indirect w)) s =
        andThen (s.fresh.draw.draw.execFlags.writeSfr r 0xFFFF (s.readW (pairLow p))) fun u =>
          andThen (u.writeSfr r' 0xFFFF (s.readW (pairHigh p))) fun v => .next (v.advance.settle s.cpuIpl)) := by
  have hrun := exec_movD_checked (p := p) hstack hlo hhi
  have hipl : s.draw.draw.execFlags.cpuIpl = s.cpuIpl := State.execFlags_cpuIpl s.draw.draw
  have hdev : s.draw.draw.execFlags.fresh.dev = s.dev := rfl
  have hfresh : s.fresh.draw.draw.execFlags = s.draw.draw.execFlags.fresh := rfl
  rw [hrun, hfresh]
  generalize s.draw.draw.execFlags = x at hipl hdev
  have hsetIpl (a v : Word) : (x.setRamWord a v).cpuIpl = s.cpuIpl := hipl
  have hsetFresh (a v : Word) : (x.setRamWord a v).fresh = x.fresh.setRamWord a v := rfl
  refine ⟨fun hsfr hram => ?_, fun hram hsfr => ?_, fun r' hsfr hsfr' => ?_⟩
  · rw [State.storeWord_sfr (hdev ▸ hsfr), exec_sfrWrite_eq, hsetIpl, hsetFresh, State.writeSfr_storeWord_ram (hdev ▸ hram)]
  · have hsfr' : (x.fresh.setRamWord (s.readW w) (s.readW (pairLow p))).dev.sfrAt (s.readW w + 2) = some r := hdev ▸ hsfr
    rw [State.storeWord_ram (hdev ▸ hram), exec_sfrWrite_eq, hsetIpl, hsetFresh, andThen_next, State.storeWord_sfr hsfr']
  · rw [State.storeWord_sfr (hdev ▸ hsfr)]
    refine andThen_congr fun t ht => ?_
    have hdev' : t.dev = s.dev := (State.writeSfr_dev ht).trans hdev
    rw [State.storeWord_sfr (hdev' ▸ hsfr')]

/-- Settles O54. -/
theorem storeToSfrIsSfrWrite : Obligations.StoreToSfrIsSfrWrite := by
  intro s disp src r ea
  exact ⟨fun mask value => exec_sfrWrite_eq r mask value s, storeToSfr, pushToSfr,
    fun size bit w hsfr heven hgood hstack => ⟨_, exec_bitManip_sfr hsfr heven hgood hstack⟩, fun p w => movDToSfr⟩

end Sys2Proof.Proofs
end

section
/-! SUPPORT. The count of the instructions that run while a request waits: what each part of a step may make of it and of its bound
(R96, R111, D8), and the statement about the step (O8). -/

namespace Sys2Proof.Machine

open Sys2Proof

/-! ### Outcomes -/

/-- Every next state of an outcome has a property. -/
def Ends (P : State → Prop) (r : Result) : Prop := ∀ t, r = .next t → P t

namespace Ends

variable {P Q : State → Prop} {r r' : Result} {t : State}

theorem next (h : P t) : Ends P (.next t) := fun _ ht => by cases ht; exact h

theorem refused {e : Refusal} : Ends P (.refused e) := fun _ ht => by cases ht

theorem andThen {f : State → Result} (hr : Ends P r) (hf : ∀ t, P t → Ends Q (f t)) : Ends Q (andThen r f) := fun t ht =>
  have ⟨u, hu, hut⟩ := andThen_eq_next.mp ht
  hf u (hr u hu) t hut

theorem of_ite {c : Prop} [Decidable c] (ht : c → Ends P r) (hu : ¬c → Ends P r') : Ends P (if c then r else r') := by
  split
  · exact ht ‹_›
  · exact hu ‹_›

end Ends

/-! ### The count of a wait -/

/-- State `t` is what a part of a step may make of `s`: the device is the same, and the count of a wait goes on with its bound or is
0; it is higher only where the part may skip an instruction, as a bit test does (R96, D8). -/
structure State.Paced (skips : Prop) (s t : State) : Prop where
  dev : t.dev = s.dev
  skid : 0 < t.skid → 0 < s.skid ∧ s.skid ≤ t.skid ∧ (t.skid = s.skid ∨ skips) ∧ t.skidBound = s.skidBound

/-- The fields that `State.Paced` speaks of. -/
def State.pace (s : State) : Device × Nat × Nat := (s.dev, s.skid, s.skidBound)

namespace State.Paced

variable {skips : Prop} {s t u : State}

theorem of_pace (h : t.pace = s.pace) : Paced skips s t := by
  simp only [State.pace, Prod.mk.injEq] at h
  obtain ⟨hdev, hskid, hbound⟩ := h
  exact ⟨hdev, fun hpos => ⟨hskid ▸ hpos, hskid.ge, .inl hskid, hbound⟩⟩

theorem trans (h : Paced skips s t) (h' : Paced skips t u) : Paced skips s u where
  dev := h'.dev.trans h.dev
  skid hu := by
    obtain ⟨ht, htu, hsame', hbound'⟩ := h'.skid hu
    obtain ⟨hs, hst, hsame, hbound⟩ := h.skid ht
    refine ⟨hs, hst.trans htu, ?_, hbound'.trans hbound⟩
    rcases hsame' with htu' | hskips
    · exact htu' ▸ hsame
    · exact .inr hskips

/-- Fields outside the pace are no matter. -/
theorem same (h : Paced skips s t) (hu : u.pace = t.pace) : Paced skips s u := h.trans (of_pace hu)

theorem of_ite {c : Prop} [Decidable c] (ht : c → Paced skips s t) (hu : ¬c → Paced skips s u) :
    Paced skips s (if c then t else u) := by
  split
  · exact ht ‹_›
  · exact hu ‹_›

theorem draw (h : Paced skips s t) : Paced skips s t.draw := h.same rfl

theorem setSfa {b : Bool} (h : Paced skips s t) : Paced skips s (t.setSfa b) := h.same rfl

theorem setPc {a : PAddr} (h : Paced skips s t) : Paced skips s (t.setPc a) := h.same rfl

theorem underflowCheck (h : Paced skips s t) : Paced skips s t.underflowCheck := h.same (by simp [State.pace])

theorem deviceReset {c : ResetCause} (h : Paced skips s t) : Paced skips s (t.deviceReset c) where
  dev := h.dev
  skid hpos := absurd hpos (Nat.lt_irrefl 0)

theorem settle {ipl : Nat} (h : Paced skips s t) : Paced skips s (t.settle ipl) := by
  rcases State.settle_cases ipl t with e | ⟨-, e⟩ <;> rw [e]
  · exact h.same rfl
  · exact h.deviceReset

/-- A store onto data memory or a special function register (R98). -/
theorem of_storeFrame (h : storeFrame s t) : Paced skips s t := by
  rw [h]
  exact of_pace rfl

theorem push16 {v : Word} (h : Paced skips s t) : Ends (Paced skips s) (t.push16 v) := fun _ hu =>
  h.trans (Paced.trans (t := { t with w15 := t.w15 + 2 }) (of_pace rfl) (of_storeFrame (State.push16_frame hu)))

theorem pushPair {lo hi : Word} (h : Paced skips s t) : Ends (Paced skips s) (t.pushPair lo hi) :=
  .of_ite (fun _ => .next (h.same (by simp [State.pace]))) fun _ => h.push16.andThen fun _ hu => hu.push16

/-! #### Instructions -/

theorem finish {used : Bool} {x : State} (h : Paced skips s t) : Paced skips s (x.finish used t) :=
  (h.same (u := t.advance.underflowAfter used x.w15) (by simp [State.pace])).settle

theorem finishStack {x : State} (h : Paced skips s t) : Paced skips s (x.finishStack t) :=
  (h.same (u := t.advance.underflowCheck) (by simp [State.pace])).settle

theorem transfer (target : PAddr) (s : State) : Paced skips s (s.transfer target) :=
  Paced.settle (of_pace (by simp only [State.pace]; split <;> simp))

theorem execRet (s : State) : Ends (Paced skips s) (execRet s) :=
  .next (Paced.settle (of_pace (by simp [State.pace])))

theorem execDoLoop (count : Word) (stop : PAddr) (s : State) : Ends (Paced skips s) (execDoLoop count stop s) := by
  have hpush : Paced skips s (s.pushLoop count stop) := by
    unfold State.pushLoop
    split <;> exact of_pace rfl
  exact .of_ite (fun _ => .refused) fun _ => .of_ite (fun _ => .next (of_pace rfl)) fun _ => .next (hpush.same rfl)

theorem loopEnd {a : PAddr} (h : Paced skips s t) : Paced skips s (t.loopEnd a) := by
  unfold State.loopEnd
  split
  · exact of_ite (fun _ => of_ite (fun _ => h.same rfl) fun _ => h.same rfl) fun _ => h
  · exact h

/-- A skipped instruction counts as one that ran, while a request waits (R96, D8). -/
theorem skipNext (h : Paced True s t) : Paced True s t.skipNext :=
  h.trans ⟨rfl, fun hpos => by
    have hskid : t.skipNext.skid = if 0 < t.skid then t.skid + 1 else 0 := rfl
    rw [hskid] at hpos ⊢
    split at hpos
    · rename_i ht
      rw [if_pos ht]
      exact ⟨ht, Nat.le_succ _, .inr trivial, rfl⟩
    · exact absurd hpos (Nat.lt_irrefl 0)⟩

theorem testSkip (want : Bool) (bit : Fin 16) (op : Operand) (s : State) : Paced True s (s.testSkip want bit op) := by
  have hflags : Paced True s (if s.fresh.badRead .word op then (s.fresh.operandCheck op).raiseHard .addr
      else s.fresh.operandCheck op).draw.execFlags := of_pace (by simp only [State.pace]; split <;> simp)
  have hunderflow {x : State} (hx : Paced True s x) : Paced True s (x.underflowAfter (Operand.usesW15 op) s.w15) :=
    hx.same (by simp [State.pace])
  refine of_ite (fun _ => Paced.settle (hunderflow (of_pace (by simp [State.pace])))) fun _ => Paced.settle (hunderflow ?_)
  exact of_ite (fun _ => hflags.skipNext) fun _ => hflags.same rfl

theorem execSftac (acc : AccSel) (amount : ShiftAmount) (s : State) : Ends (Paced skips s) (execSftac acc amount s) :=
  .of_ite (fun _ => .refused) fun _ => .of_ite (fun _ => .next (of_pace rfl)) fun _ => .next (of_pace (by simp [State.pace]))

theorem execDiv (divisor : WReg) (first : Bool) (dsts : List WReg) (s : State) :
    Ends (Paced skips s) (execDiv divisor first dsts s) :=
  .next (of_pace (by simp only [State.pace]; split <;> simp [State.divideError]))

theorem execMacClass (acc : AccSel) (x y : WReg) (dsts : List WReg) (s : State) :
    Ends (Paced skips s) (execMacClass acc x y dsts s) :=
  .of_ite (fun _ => .refused) fun _ => .next (Paced.settle (of_pace (by simp only [State.pace]; split <;> simp)))

theorem execBitManip (size : Size) (bit : Fin 16) (op : Operand) (s : State) :
    Ends (Paced skips s) (execBitManip size bit op s) := by
  refine .of_ite (fun _ => .next (finish (of_pace (by simp [State.pace])))) fun _ => ?_
  cases op with
  | direct w => exact .next (finish (of_pace (by simp [State.pace])))
  | indirect w =>
    have hcheck : Paced skips s (s.fresh.operandCheck (.indirect w)).draw.execFlags := of_pace (by simp [State.pace])
    exact .of_ite (fun _ => .next (finish (of_pace (by simp [State.pace])))) fun _ =>
      Ends.andThen (fun _ hu => hcheck.trans (of_storeFrame (State.storeBit_frame hu))) fun _ hu => .next (finish hu)
  | paged w => exact .of_ite (fun _ => .next (finish (of_pace (by simp [State.pace])))) fun _ => .refused

theorem dwStore {dst : DwOperand} {lo hi : Word} (h : Paced skips s t) : Ends (Paced skips s) (t.dwStore dst lo hi) := by
  have hstore {a v : Word} {x : State} (hx : Paced skips s x) : Ends (Paced skips s) (x.storeWord a v) := fun _ hu =>
    hx.trans (of_storeFrame (State.storeWord_frame hu))
  cases dst with
  | pair p => exact .next (h.same (by simp [State.pace]))
  | indirect w => exact (hstore h).andThen fun _ hu => hstore hu
  | paged w => exact .refused

theorem execMovD (src dst : DwOperand) (s : State) : Ends (Paced skips s) (execMovD src dst s) := by
  have hcheck {c : Prop} [Decidable c] : Paced skips s (if c then ((s.fresh.dwCheck src).dwCheck dst).raiseHard .addr
      else (s.fresh.dwCheck src).dwCheck dst).draw.draw.execFlags := of_pace (by simp only [State.pace]; split <;> simp)
  exact .of_ite (fun _ => .next (finish hcheck)) fun _ => (dwStore hcheck).andThen fun _ hu => .next (finish hu)

theorem execSfrWrite (reg : Sfr) (mask value : Word) (s : State) : Ends (Paced skips s) (execSfrWrite reg mask value s) :=
  Ends.andThen (P := Paced skips s)
    (fun _ hu => Paced.trans (t := s.fresh) (of_pace rfl) (of_storeFrame (State.writeSfr_storeFrame hu)))
    fun _ hu => .next (finish hu)

theorem stackLoad {size : Size} {ea : Word} {dst : WReg} {src : State} (h : Paced skips s t) :
    Paced skips s (t.stackLoad size ea dst src) := by
  refine of_ite (fun _ => h.same (by simp [State.pace])) fun _ => ?_
  cases size <;> exact h.same (by simp [State.pace])

theorem stackStore {size : Size} {ea v : Word} (h : Paced skips s t) : Ends (Paced skips s) (t.stackStore size ea v) := by
  refine .of_ite (fun _ => .next (h.same (by simp [State.pace]))) fun _ _ hu => h.trans ?_
  cases size with
  | byte => exact of_storeFrame (State.storeByte_frame hu)
  | word => exact of_storeFrame (State.storeWord_frame hu)

theorem execW15Access (op : StackOp) (s : State) : Ends (Paced skips s) (execW15Access op s) := by
  have hs : Paced skips s s.fresh := of_pace rfl
  cases op with
  | push src => exact hs.push16.andThen fun _ hu => .next (finishStack hu)
  | pop dst => exact .next (finishStack (of_pace (by simp [State.pace])))
  | load size disp dst => exact .next (finishStack (stackLoad (of_pace (by simp [State.pace]))))
  | store size disp src =>
    exact (stackStore (of_pace (by simp [State.pace]))).andThen fun _ hu => .next (finishStack hu)
  | call target => exact hs.draw.pushPair.andThen fun _ hu => .next hu.setSfa.setPc.underflowCheck.settle
  | link lit14 =>
    refine hs.draw.push16.andThen fun x hx => .next (finishStack (Paced.setSfa ?_))
    exact Paced.same hx (by simp [State.pace])
  | unlink => exact .next (finishStack (of_pace (by simp [State.pace, State.setSfa])))

/-- Every instruction leaves the count of a wait, but for a bit test that skips (R96, D8). -/
theorem exec (i : Instr) (s : State) : Ends (Paced True s) (exec i s) := by
  cases i with
  | nop | disi lit14 | pwrsav m => exact .next (of_pace rfl)
  | retfie => exact .next (Paced.settle (of_pace (by simp [State.pace, State.unstack])))
  | ret => exact execRet s
  | reset => exact .next (deviceReset (of_pace rfl))
  | goto target => exact .next (transfer ..)
  | bra slit16 => exact .next (transfer ..)
  | sftac acc amount => exact execSftac acc amount s
  | div divisor first dsts => exact execDiv divisor first dsts s
  | repeatLoop => exact .refused
  | doLoop count stop => exact execDoLoop count stop s
  | macClass acc x y dsts => exact execMacClass acc x y dsts s
  | bitManip size bit op => exact execBitManip size bit op s
  | movD src dst => exact execMovD src dst s
  | tblrd ptr dst => exact .next (finish (of_pace (by simp [State.pace])))
  | btsc bit op => exact .next (testSkip ..)
  | btss bit op => exact .next (testSkip ..)
  | sfrWrite reg mask value => exact execSfrWrite reg mask value s
  | w15Access op => exact execW15Access op s

theorem runInstr (s : State) : Ends (Paced True s) s.runInstr := fun t ht => by
  rcases State.runInstr_cases ht with ⟨-, rfl⟩ | ⟨-, i, u, -, hu, rfl⟩
  · exact Paced.settle (of_pace (by simp [State.pace]))
  · exact (exec i s u hu).loopEnd

/-! #### The environment and the end of a step -/

theorem event (e : EnvEvent) (s : State) : Paced False s (s.event e) := by
  have hunit {unit : Bool} {t : State} (ht : Paced False s t) : Paced False s (if unit then t else s) :=
    of_ite (fun _ => ht) fun _ => of_pace rfl
  have hagent (a : Word) (v : Byte) (flag : Word) : Paced False s (s.agentWrite a v flag) :=
    of_ite (fun _ => of_pace rfl) fun _ => of_ite (fun _ => of_pace rfl) fun _ => of_pace rfl
  cases e with
  | irq n => exact of_pace (by simp [State.pace, State.event])
  | oscFail => exact Paced.settle (of_pace (by simp [State.pace]))
  | dmaWrite a v => exact hunit (hagent ..)
  | usbWrite a v => exact hunit (hagent ..)
  | pin k level =>
    refine of_ite (fun _ => ?_) fun _ => of_pace rfl
    split <;> exact of_pace (by simp [State.pace])
  | deviceReset => exact deviceReset (c := .other) (of_pace rfl)
  | dmaCollision | dmaAddrError | usbAddrError | nvmAddrError | usbPllUnlock | apllUnlock => exact hunit (of_pace rfl)

theorem environment (s : State) : Paced False s s.environment :=
  Paced.same (State.events_keeps (P := Paced False s) (fun x e hx => hx.trans (event e x)) (s.env.headD [])
    { s with env := s.env.tail } (of_pace rfl)) rfl

theorem tickDisi (s : State) : Paced False s s.tickDisi := of_ite (fun _ => of_pace rfl) fun _ => of_pace rfl

end State.Paced

/-! ### The step -/

/-- Once a wait has begun its bound stays: SKID_MAX, or the number drawn at its start (R111). -/
theorem State.skidLimit_of_waiting {s : State} (h : 0 < s.skid) : s.skidLimit = s.dev.skidMax.getD s.skidBound := by
  unfold State.skidLimit
  cases s.dev.skidMax with
  | some m => rfl
  | none => exact if_neg h.ne'

theorem State.Paced.skidLimit {skips : Prop} {s t : State} (h : s.Paced skips t) (ht : 0 < t.skid) :
    t.skidLimit = s.skidLimit := by
  obtain ⟨hs, -, -, hbound⟩ := h.skid ht
  rw [State.skidLimit_of_waiting ht, State.skidLimit_of_waiting hs, h.dev, hbound]

/-- An exception taken ends the wait (R111). -/
theorem State.takeException_skid {e : Exc} {s t : State} (h : s.takeException e = .next t) : t.skid = 0 := by
  obtain ⟨target, t1, t2, -, -, -, rfl⟩ := State.takeException_cases h
  rcases State.settle_cases s.cpuIpl (t2.enterAfterPush e (e.level s) target) with hend | ⟨-, hend⟩ <;> rw [hend]
  · rw [State.reassert_frame, State.enterAfterPush_frame]
  · rfl

/-- After a boundary nothing waits, or the request there waits for one instruction more, within its bound (R111, D8). -/
theorem State.boundary_skid {e : Option Exc} {s t : State} (h : s.boundary e = .next t) :
    t.skid = 0 ∨ (s.skid < t.skid ∧ t.skid ≤ s.skidLimit ∧ t.skidLimit = s.skidLimit) := by
  cases e with
  | none =>
    have hpaced := State.Paced.runInstr _ t h
    exact .inl (Nat.eq_zero_of_not_pos fun hpos => Nat.lt_irrefl 0 (hpaced.skid hpos).1)
  | some e =>
    unfold State.boundary at h
    dsimp only at h
    split at h
    · exact .inl (State.takeException_skid h)
    · split at h
      · rcases State.unlessPastLimit_cases h with ⟨hrun, hle⟩ | htaken
        · rcases Nat.eq_zero_or_pos t.skid with hzero | hpos
          · exact .inl hzero
          · have hpaced := State.Paced.runInstr _ t hrun
            obtain ⟨hwaits, hrise, -, -⟩ := hpaced.skid hpos
            have hbound : s.waiting.skidLimit = s.skidLimit := by
              rw [State.skidLimit_of_waiting hwaits]
              change s.dev.skidMax.getD s.skidLimit = s.skidLimit
              cases hmax : s.dev.skidMax <;> simp [State.skidLimit, hmax]
            exact .inr ⟨hrise, hle, (hpaced.skidLimit hpos).trans hbound⟩
        · exact .inl (State.takeException_skid htaken)
      · exact .inl (State.takeException_skid h)

/-- What comes after the CPU's part of a step leaves the wait as it is, or a device reset ends it. -/
theorem State.Paced.within {s t : State} (h : s.Paced False t) (hs : s.skid ≤ s.skidLimit) : t.skid ≤ t.skidLimit := by
  rcases Nat.eq_zero_or_pos t.skid with hzero | hpos
  · omega
  · obtain ⟨-, -, hsame, -⟩ := h.skid hpos
    rw [h.skidLimit hpos, hsame.resolve_right id]
    exact hs

/-- Neither waking nor a boundary's sample of GIE enters the wait. -/
theorem State.wake_wait (s : State) : s.fresh.wake.tickGie.skid = s.skid ∧ s.fresh.wake.tickGie.skidLimit = s.skidLimit := by
  rw [State.wake_frame]
  exact ⟨rfl, rfl⟩

end Sys2Proof.Machine

namespace Sys2Proof.Proofs

open Sys2Proof Sys2Proof.Machine

/-- Settles O8: a sleeping CPU leaves the wait, an awake one ends it or goes on with it at the boundary, and the count of DISICNT and
the environment go no further. -/
theorem requestCountStaysWithinBound : Obligations.RequestCountStaysWithinBound := by
  intro s t hbound hstep
  obtain ⟨u, hcpu, ht⟩ := andThen_eq_next.mp hstep
  cases ht
  have henv := State.Paced.environment u
  obtain ⟨hskid, hlimit⟩ := s.wake_wait
  rcases State.cpuStep_cases hcpu with ⟨rfl, hasleep⟩ | ⟨v, -, hboundary, rfl⟩
  · refine ⟨henv.within ?_, fun hrun => absurd ?_ hasleep⟩
    · exact (hskid.trans_le hbound).trans_eq hlimit.symm
    · rw [State.wake_of_run (s := s.fresh) hrun]
      exact hrun
  · have hend : v.Paced False v.tickDisi.environment := (State.Paced.tickDisi v).trans henv
    have hwait := State.boundary_skid hboundary
    change v.skid = 0 ∨ s.fresh.wake.tickGie.skid < v.skid ∧ v.skid ≤ s.fresh.wake.tickGie.skidLimit ∧
      v.skidLimit = s.fresh.wake.tickGie.skidLimit at hwait
    rw [hskid, hlimit] at hwait
    refine ⟨hend.within ?_, fun _ hpos => ?_⟩
    · rcases hwait with hzero | ⟨-, hle, hlim⟩
      · omega
      · exact hlim ▸ hle
    · obtain ⟨hv, hle, -, -⟩ := hend.skid hpos
      obtain ⟨hrise, -, hlim⟩ := hwait.resolve_left hv.ne'
      exact ⟨hrise.trans_le hle, (hend.skidLimit hpos).trans hlim⟩

end Sys2Proof.Proofs
end

section
/-! SUPPORT. Arbitration: which trap and which interrupt wins at a boundary (R101 to R110), and the statements on the table of traps and
on what CPU priority, DISI and GIE hold off (O12 to O16). -/

namespace Sys2Proof.Machine

open Sys2Proof

/-! ### Traps -/

/-- In a list of falling ranks the first element with a property is the one of highest rank. -/
theorem find?_eq_some_iff_highest {α : Type} {rank : α → Nat} {p : α → Bool} {l : List α} {a : α}
    (hl : l.Pairwise fun x y => rank y < rank x) :
    l.find? p = some a ↔ a ∈ l ∧ p a = true ∧ ∀ b ∈ l, p b = true → rank b ≤ rank a := by
  induction l with
  | nil => simp
  | cons x l ih =>
    obtain ⟨hx, hl⟩ := List.pairwise_cons.mp hl
    cases hpx : p x
    · rw [List.find?_cons_of_neg (by simp [hpx]), ih hl]
      have hne (b : α) (hb : p b = true) : b ≠ x := fun h => by simp [h, hpx] at hb
      constructor
      · rintro ⟨ha, hpa, hmax⟩
        exact ⟨.tail x ha, hpa, fun b hb hpb => hmax b ((List.mem_cons.mp hb).resolve_left (hne b hpb)) hpb⟩
      · rintro ⟨ha, hpa, hmax⟩
        exact ⟨(List.mem_cons.mp ha).resolve_left (hne a hpa), hpa, fun b hb => hmax b (.tail x hb)⟩
    · rw [List.find?_cons_of_pos hpx]
      constructor
      · rintro ⟨⟩
        refine ⟨.head l, hpx, fun b hb _ => ?_⟩
        rcases List.mem_cons.mp hb with rfl | hb
        · exact Nat.le_refl _
        · exact (hx b hb).le
      · rintro ⟨ha, -, hmax⟩
        rcases List.mem_cons.mp ha with rfl | ha
        · rfl
        · exact absurd (hmax x (.head l) hpx) (Nat.not_le.mpr (hx a ha))

theorem Trap.mem_all (t : Trap) : t ∈ Trap.all := by cases t <;> decide

theorem Device.gstLevel_eq (d : Device) : d.gstLevel = 8 ∨ d.gstLevel = 9 := by
  unfold Device.gstLevel
  split <;> simp

/-- The list of traps goes from the highest level down, whichever of its two levels the generic soft trap has (R101). -/
theorem Trap.all_falling (d : Device) : Trap.all.Pairwise fun t u => u.level d < t.level d := by
  rcases Device.gstLevel_eq d with h | h <;> simp [Trap.all, Trap.level, h]

theorem Trap.level_injective {d : Device} {t u : Trap} (h : t.level d = u.level d) : t = u := by
  have hfirst (x : Trap) (hx : x.level d = t.level d) : Trap.all.find? (fun y => y.level d == t.level d) = some x :=
    (find?_eq_some_iff_highest (Trap.all_falling d)).mpr
      ⟨x.mem_all, beq_iff_eq.mpr hx, fun y _ hy => ((beq_iff_eq.mp hy).trans hx.symm).le⟩
  exact Option.some.inj ((hfirst t rfl).symm.trans (hfirst u h.symm))

theorem State.trapDeliverable_iff {s : State} {t : Trap} :
    s.trapDeliverable t = true ↔ s.trapRequest t = true ∧ s.cpuIpl < t.level s.dev := by
  simp [State.trapDeliverable]

theorem State.trapWinner_eq_some_iff {s : State} {t : Trap} : s.trapWinner = some t ↔
    s.trapDeliverable t = true ∧ ∀ u, s.trapDeliverable u = true → u.level s.dev ≤ t.level s.dev := by
  rw [State.trapWinner, find?_eq_some_iff_highest (Trap.all_falling s.dev)]
  exact ⟨fun ⟨_, h, hmax⟩ => ⟨h, fun u => hmax u u.mem_all⟩, fun ⟨h, hmax⟩ => ⟨t.mem_all, h, fun u _ => hmax u⟩⟩

theorem State.trapWinner_eq_none_iff {s : State} : s.trapWinner = none ↔ ∀ t, ¬s.trapDeliverable t = true := by
  rw [State.trapWinner, List.find?_eq_none]
  exact ⟨fun h t => h t t.mem_all, fun h t _ => h t⟩

/-! ### Interrupts -/

/-- Interrupt `n` goes before interrupt `m`: it has the higher level, or the same and the lower number (R109, R110). -/
def State.goesBefore (s : State) (n m : Nat) : Prop :=
  (s.ipcOf m).toNat < (s.ipcOf n).toNat ∨ ((s.ipcOf m).toNat = (s.ipcOf n).toNat ∧ n ≤ m)

theorem State.bestIrq_eq_none {s : State} {bound : Nat} (h : s.bestIrq bound = none) :
    ∀ m < bound, ¬s.irqDeliverable m = true := by
  induction bound with
  | zero => exact fun m hm => absurd hm (Nat.not_lt_zero m)
  | succ k ih =>
    unfold State.bestIrq at h
    split at h
    · split at h
      · cases h
      · split at h <;> cases h
    · rename_i hk
      intro m hm
      rcases Nat.lt_succ_iff_lt_or_eq.mp hm with hlt | rfl
      · exact ih h m hlt
      · exact hk

theorem State.bestIrq_goesBefore {s : State} {bound n : Nat} (h : s.bestIrq bound = some n) :
    n < bound ∧ ∀ m < bound, s.irqDeliverable m = true → s.goesBefore n m := by
  induction bound generalizing n with
  | zero => cases h
  | succ k ih =>
    unfold State.bestIrq at h
    unfold State.goesBefore at ih ⊢
    split at h
    · split at h
      · rename_i hnone
        cases h
        refine ⟨Nat.lt_succ_self k, fun m hm hdel => ?_⟩
        rcases Nat.lt_succ_iff_lt_or_eq.mp hm with hlt | rfl
        · exact absurd hdel (State.bestIrq_eq_none hnone m hlt)
        · exact .inr ⟨rfl, Nat.le_refl m⟩
      · rename_i best hbest
        obtain ⟨hlt, hall⟩ := ih hbest
        split at h <;> cases h
        · rename_i hhigher
          refine ⟨Nat.lt_succ_self k, fun m hm hdel => ?_⟩
          rcases Nat.lt_succ_iff_lt_or_eq.mp hm with hm | rfl
          · have := hall m hm hdel
            omega
          · exact .inr ⟨rfl, Nat.le_refl m⟩
        · rename_i hnot
          refine ⟨Nat.lt_succ_of_lt hlt, fun m hm hdel => ?_⟩
          rcases Nat.lt_succ_iff_lt_or_eq.mp hm with hm | rfl
          · exact hall m hm hdel
          · omega
    · rename_i hk
      obtain ⟨hlt, hall⟩ := ih h
      refine ⟨Nat.lt_succ_of_lt hlt, fun m hm hdel => ?_⟩
      rcases Nat.lt_succ_iff_lt_or_eq.mp hm with hm | rfl
      · exact hall m hm hdel
      · exact absurd hdel hk

theorem State.lt_of_irqDeliverable {s : State} {n : Nat} (h : s.irqDeliverable n = true) : n < numIrqs := by
  obtain ⟨himpl, -⟩ := State.irqDeliverable_iff.mp h
  exact BitVec.lt_of_getLsbD himpl

/-- The interrupt that wins among all is the deliverable one that goes before every other (R109). -/
theorem State.bestIrq_eq_some_iff {s : State} {n : Nat} : s.bestIrq numIrqs = some n ↔
    s.irqDeliverable n = true ∧ ∀ m, s.irqDeliverable m = true → s.goesBefore n m := by
  constructor
  · intro h
    exact ⟨State.irqDeliverable_of_bestIrq h, fun m hm => (State.bestIrq_goesBefore h).2 m (State.lt_of_irqDeliverable hm) hm⟩
  · rintro ⟨hn, hall⟩
    have hlt := State.lt_of_irqDeliverable hn
    cases hbest : s.bestIrq numIrqs with
    | none => exact absurd hn (State.bestIrq_eq_none hbest n hlt)
    | some m =>
      have hmn := (State.bestIrq_goesBefore hbest).2 n hlt hn
      have hnm := hall m (State.irqDeliverable_of_bestIrq hbest)
      unfold State.goesBefore at hmn hnm
      rw [show m = n by omega]

/-! ### The winner -/

theorem State.winner_eq_trap_iff {s : State} {t : Trap} : s.winner = some (.trap t) ↔ s.trapWinner = some t := by
  unfold State.winner
  cases s.trapWinner <;> simp

theorem State.winner_eq_irq_iff {s : State} {n : Nat} :
    s.winner = some (.irq n) ↔ s.trapWinner = none ∧ s.bestIrq numIrqs = some n := by
  unfold State.winner
  cases s.trapWinner <;> simp

theorem State.effIpl_of_seen {s : State} (h : s.giePipe = true) : s.effIpl = s.cpuIpl := if_pos h

theorem State.effIpl_of_unseen {s : State} (h : s.giePipe = false) : s.effIpl = max s.cpuIpl 7 := if_neg (by simp [h])

end Sys2Proof.Machine

namespace Sys2Proof.Proofs

open Sys2Proof Sys2Proof.Machine

/-- Settles O13: traps are listed by falling level, and interrupts are compared by level, then by number. -/
theorem winnerIsHighestDeliverable : Obligations.WinnerIsHighestDeliverable := by
  intro s
  refine ⟨fun t => ?_, fun n => ?_⟩
  · rw [State.winner_eq_trap_iff, State.trapWinner_eq_some_iff]
    simp only [State.trapDeliverable_iff, and_imp]
  · rw [State.winner_eq_irq_iff, State.trapWinner_eq_none_iff, State.bestIrq_eq_some_iff]
    have hdisi (m : Nat) : (s.disi = false ∨ 6 < (s.ipcOf m).toNat) ↔ ¬(s.disi = true ∧ (s.ipcOf m).toNat ≤ 6) := by
      rw [not_and_or, Bool.not_eq_true, Nat.not_le]
    simp only [State.trapDeliverable_iff, State.irqDeliverable_iff, hdisi, and_imp, not_and, Nat.not_lt]
    rfl

/-- Settles O14: a winner is deliverable, and no interrupt's level is above 7. -/
theorem winnerIsAboveCpuPriority : Obligations.WinnerIsAboveCpuPriority := by
  intro s e hwin
  cases e with
  | trap t =>
    obtain ⟨hdel, -⟩ := State.trapWinner_eq_some_iff.mp (State.winner_eq_trap_iff.mp hwin)
    exact ⟨(State.trapDeliverable_iff.mp hdel).2, nofun⟩
  | irq n =>
    obtain ⟨-, -, -, hlevel, -⟩ := State.irqDeliverable_iff.mp (State.irqDeliverable_of_winner hwin)
    have hcpu := s.cpuIpl_le_effIpl
    refine ⟨hcpu.trans_lt hlevel, ?_⟩
    rintro _ ⟨⟩
    exact ⟨hlevel, by omega⟩

/-- Settles O15. -/
theorem disiHoldsOffLevelsOneToSix : Obligations.DisiHoldsOffLevelsOneToSix := by
  intro s hdisi
  refine ⟨fun n hlow hwin => ?_, fun n hseven => ?_, fun t => State.trapDeliverable_iff⟩
  · obtain ⟨-, -, -, -, hopen⟩ := State.irqDeliverable_iff.mp (State.irqDeliverable_of_winner hwin)
    rcases hopen with hopen | hopen
    · exact Bool.false_ne_true (hopen.symm.trans hdisi)
    · omega
  · rw [State.irqDeliverable_iff, hseven]
    simp

/-- Settles O16: with GIE seen as 0 the controller acts on a priority of at least 7, above which no interrupt's level lies. -/
theorem gieGatesInterruptsOnly : Obligations.GieGatesInterruptsOnly := by
  intro s
  refine ⟨fun hgie hlag => ?_, fun hseen => State.effIpl_of_seen (by simpa [State.giePipe] using hseen)⟩
  have heff : s.effIpl = max s.cpuIpl 7 := State.effIpl_of_unseen (by simp [State.giePipe, hgie, hlag])
  refine ⟨heff, fun n hwin => ?_, fun t => State.trapDeliverable_iff⟩
  obtain ⟨-, -, -, hlevel, -⟩ := State.irqDeliverable_iff.mp (State.irqDeliverable_of_winner hwin)
  omega

/-- Settles O12. -/
theorem trapSourceTable : Obligations.TrapSourceTable := by
  intro s
  refine ⟨fun t => ?_, fun t => ?_, fun t => ?_, fun t => ?_, fun t u => Trap.level_injective, fun t => ?_⟩
  · cases t <;> simp [State.trapRequest]
  · cases t <;> rfl
  · cases t <;> simp [Trap.hard]
  · cases t with
    | genericSoft =>
      simp only [Trap.hard, Trap.level, Device.gstLevel]
      split <;> decide
    | _ => simp [Trap.hard, Trap.level]
  · cases t <;> rfl

end Sys2Proof.Proofs
end

section
/-! SUPPORT. Waking, and what a boundary does with its winner: the statements on the first boundary of a hard trap, on a request that
waits, and on Sleep and Idle (O6, O7, O9, O10). -/

namespace Sys2Proof.Machine

open Sys2Proof

/-! ### Waking -/

/-- Something ends Sleep or Idle: a deliverable trap, or an interrupt source (R150). -/
def State.wakeable (s : State) : Bool := s.trapWinner.isSome || s.anyWakes numIrqs

/-- A wakeable CPU acts as an awake one, asleep or not. -/
theorem State.wake_of_wakeable {s : State} (h : s.wakeable = true) : s.wake = { s with mode := .run } := by
  by_cases hmode : s.mode = .run
  · rw [State.wake_of_run hmode, ← hmode]
  · exact if_pos ⟨hmode, h⟩

theorem State.wake_of_not_wakeable {s : State} (h : s.wakeable = false) : s.wake = s :=
  if_neg fun ⟨_, hwakes⟩ => Bool.false_ne_true (h.symm.trans hwakes)

theorem State.anyWakes_iff {s : State} {bound : Nat} : s.anyWakes bound = true ↔ ∃ n < bound, s.irqWakes n = true := by
  induction bound with
  | zero => simp [State.anyWakes]
  | succ k ih =>
    rw [State.anyWakes, Bool.or_eq_true, ih]
    constructor
    · rintro (hk | ⟨n, hn, hwakes⟩)
      · exact ⟨k, Nat.lt_succ_self k, hk⟩
      · exact ⟨n, Nat.lt_succ_of_lt hn, hwakes⟩
    · rintro ⟨n, hn, hwakes⟩
      rcases Nat.lt_succ_iff_lt_or_eq.mp hn with hn | rfl
      · exact .inr ⟨n, hn, hwakes⟩
      · exact .inl hwakes

theorem State.irqWakes_iff {s : State} {n : Nat} : s.irqWakes n = true ↔
    s.implemented n = true ∧ s.ifsBit n = true ∧ s.iecBit n = true ∧ 1 ≤ (s.ipcOf n).toNat := by
  simp [State.irqWakes, and_assoc]

/-- What wakes the CPU, whatever GIE and DISI (R150, D26). -/
theorem State.wakeable_iff {s : State} : s.wakeable = true ↔
    (∃ n, s.implemented n = true ∧ s.ifsBit n = true ∧ s.iecBit n = true ∧ 1 ≤ (s.ipcOf n).toNat) ∨
      ∃ t, s.trapDeliverable t = true := by
  have htrap : s.trapWinner.isSome = true ↔ ∃ t, s.trapDeliverable t = true := by
    rw [Option.isSome_iff_ne_none, ne_eq, State.trapWinner_eq_none_iff]
    push Not
    rfl
  have hirq : s.anyWakes numIrqs = true ↔ ∃ n, s.irqWakes n = true := by
    rw [State.anyWakes_iff]
    exact ⟨fun ⟨n, _, h⟩ => ⟨n, h⟩, fun ⟨n, h⟩ => ⟨n, BitVec.lt_of_getLsbD (State.irqWakes_iff.mp h).1, h⟩⟩
  simp only [State.wakeable, Bool.or_eq_true, htrap, hirq, State.irqWakes_iff, or_comm]

/-! ### The boundary -/

/-- A step that finds the CPU awake, or wakes it, acts on the winner sampled at the boundary (R109, R150). -/
theorem step_of_awake {s : State} (h : s.mode = .run ∨ s.wakeable = true) : step s =
    andThen (State.boundary s.winner { s with gieLag := s.gieLag - 1, log := {}, mode := .run }) fun u =>
      .next u.tickDisi.environment := by
  have hwake : s.fresh.wake = { s.fresh with mode := .run } := by
    rcases h with hrun | hwakes
    · rw [State.wake_of_run (s := s.fresh) hrun]
      exact congrArg (fun m => { s.fresh with mode := m }) hrun
    · refine State.wake_of_wakeable (Eq.trans ?_ hwakes)
      have hfresh (bound : Nat) : s.fresh.anyWakes bound = s.anyWakes bound := by
        induction bound with
        | zero => rfl
        | succ k ih => exact congrArg (s.irqWakes k || ·) ih
      exact congrArg (s.trapWinner.isSome || ·) (hfresh numIrqs)
  have hmode : s.fresh.wake.mode = .run := by rw [hwake]
  have hcpu : s.fresh.cpuStep = andThen (s.fresh.wake.tickGie.boundary s.fresh.wake.winner) fun u => .next u.tickDisi :=
    if_pos hmode
  rw [step, hcpu, State.winner_wake, State.winner_fresh, hwake, andThen_assoc]
  rfl

theorem State.boundary_hard {e : Exc} {s : State} (h : e.hard = true) : s.boundary (some e) = s.takeException e := if_pos h

theorem State.boundary_soft {e : Exc} {s : State} (h : e.hard = false) : s.boundary (some e) =
    if s.defers then s.unlessPastLimit e s.waiting.runInstr else s.draw.takeException e := if_neg (by simp [h])

theorem State.defers_iff {s : State} : s.defers = true ↔ s.skid < s.skidLimit ∧ Config.freeBool s.free = true := by
  simp [State.defers, State.maySkid]

/-! ### Asleep -/

/-- Where nothing wakes the CPU a step is the environment's alone (R83). -/
theorem step_of_asleep {s : State} (hmode : s.mode ≠ .run) (h : s.fresh.wakeable = false) :
    step s = .next s.fresh.environment := by
  have hcpu : s.fresh.cpuStep = .next s.fresh.wake := if_neg (by rwa [State.wake_of_not_wakeable h])
  rw [step, hcpu, State.wake_of_not_wakeable h]
  rfl

/-- What the environment leaves of a sleeping CPU, and what decides whether an oscillator failure conflicts: mode, PC, the CPU priority
and the lower hard traps logged. -/
def State.dormancy (s : State) : Mode × PAddr × Nat × Bool × Bool := (s.mode, s.pc, s.cpuIpl, s.log.addr, s.log.gen)

/-- An oscillator failure conflicts at CPU priority 15, or with a lower hard trap condition of the step (R127, R130). -/
theorem State.hardConflict_oscFail {s : State} :
    (s.raiseHard .osc).reassert.hardConflict s.cpuIpl = true ↔ s.cpuIpl = 15 ∨ s.log.addr = true ∨ s.log.gen = true := by
  have hosc : (s.raiseHard .osc).reassert.trapRequest .oscillator = true := by
    simp [State.trapRequest, State.reassert, State.raiseHard]
  have hlog : (s.raiseHard .osc).reassert.log = { s.log with osc := true } := rfl
  have hipl : 15 ≤ s.cpuIpl ↔ s.cpuIpl = 15 := ⟨fun h => Nat.le_antisymm s.cpuIpl_le h, Nat.le_of_eq ∘ Eq.symm⟩
  simp [State.hardConflict, hosc, hlog, hipl, or_assoc]

theorem State.event_oscFail_calm {s : State} (h : ¬(s.cpuIpl = 15 ∨ s.log.addr = true ∨ s.log.gen = true)) :
    s.event .oscFail = (s.raiseHard .osc).reassert := if_neg (State.hardConflict_oscFail.not.mpr h)

/-- No event but a device reset and an oscillator failure touches a sleeping CPU (R103). -/
theorem State.dormancy_event {s : State} {e : EnvEvent} (hreset : e ≠ .deviceReset)
    (hosc : e = .oscFail → s.event .oscFail = (s.raiseHard .osc).reassert) : (s.event e).dormancy = s.dormancy := by
  have hunit {unit : Bool} {t : State} (ht : t.dormancy = s.dormancy) : (if unit then t else s).dormancy = s.dormancy := by
    cases unit
    · rfl
    · exact ht
  have hagent (a : Word) (v : Byte) (flag : Word) : (s.agentWrite a v flag).dormancy = s.dormancy := by
    unfold State.agentWrite
    repeat' split
    all_goals rfl
  have hifs (t : State) (n : Nat) : (t.setIfs n).dormancy = t.dormancy := by
    rw [State.setIfs_frame]
    rfl
  cases e with
  | irq n => exact hifs s n
  | oscFail =>
    rw [hosc rfl]
    rfl
  | dmaWrite a v => exact hunit (hagent ..)
  | usbWrite a v => exact hunit (hagent ..)
  | pin k level =>
    change (s.pinEdge k level).dormancy = _
    unfold State.pinEdge
    dsimp only
    repeat' split
    · exact hifs _ _
    all_goals rfl
  | deviceReset => exact absurd rfl hreset
  | dmaCollision | dmaAddrError | usbAddrError | nvmAddrError | usbPllUnlock | apllUnlock => exact hunit rfl

theorem State.dormancy_events {s : State} {es : List EnvEvent} (haddr : s.log.addr = false) (hgen : s.log.gen = false)
    (hreset : .deviceReset ∉ es) (hosc : .oscFail ∈ es → s.cpuIpl < 15) : (s.events es).dormancy = s.dormancy := by
  induction es generalizing s with
  | nil => rfl
  | cons e es ih =>
    have hsame : (s.event e).dormancy = s.dormancy := by
      refine State.dormancy_event (fun h => hreset (h ▸ .head es)) ?_
      rintro rfl
      refine State.event_oscFail_calm ?_
      simp [haddr, hgen, (hosc (.head es)).ne]
    have hparts := hsame
    simp only [State.dormancy, Prod.mk.injEq] at hparts
    obtain ⟨-, -, hipl, haddr', hgen'⟩ := hparts
    exact (ih (haddr'.trans haddr) (hgen'.trans hgen) (fun h => hreset (.tail e h))
      fun h => hipl ▸ hosc (.tail e h)).trans hsame

end Sys2Proof.Machine

namespace Sys2Proof.Proofs

open Sys2Proof Sys2Proof.Machine

/-- Settles O6: a trap that wins is deliverable, and so wakes a CPU that sleeps. -/
theorem hardTrapTakenAtOnce : Obligations.HardTrapTakenAtOnce := by
  intro s t hwin hhard
  have hwakes : s.wakeable = true := by
    rw [State.wakeable, State.winner_eq_trap_iff.mp hwin]
    rfl
  rw [step_of_awake (.inr hwakes), hwin, State.boundary_hard (e := .trap t) hhard]

/-- Settles O7. -/
theorem requestTakenWithinSkid : Obligations.RequestTakenWithinSkid := by
  intro s e taken run hmode hwin hsoft htaken hrun
  have hstep := step_of_awake (s := s) (.inl hmode)
  generalize hx : ({ s with gieLag := s.gieLag - 1, log := {}, mode := .run } : State) = x at hstep
  have hxs : x = { s with gieLag := s.gieLag - 1, log := {} } := by rw [← hx, ← hmode]
  rw [hwin, State.boundary_soft hsoft] at hstep
  have hlimit : x.skidLimit = s.skidLimit := by rw [hxs]; rfl
  have hdefers : x.defers = true ↔ s.skid < s.skidLimit ∧ Config.freeBool s.free = true := by
    rw [hxs]
    exact State.defers_iff
  have htake : taken = andThen (x.draw.takeException e) fun u => .next u.tickDisi.environment := by
    rw [htaken, hxs]
    rfl
  have hwait : run = x.waiting.runInstr := by
    rw [hrun, hxs]
    rfl
  refine ⟨fun m hm => by rw [State.skidLimit, hm], fun hno => ?_, fun hlt hfree => ?_⟩
  · rw [hstep, htake, if_neg]
    rw [hdefers]
    rintro ⟨hlt, hfree⟩
    rcases hno with hge | hno
    · omega
    · exact Bool.false_ne_true (hno.symm.trans hfree)
  · rw [if_pos (hdefers.mpr ⟨hlt, hfree⟩), ← hwait] at hstep
    refine ⟨fun u hu hle => ?_, fun u hu hgt => ?_, fun r hr => ?_, fun f hf => ?_⟩
    · rw [hstep, hu, State.unlessPastLimit, andThen_next, hlimit, if_pos hle, andThen_next]
    · rw [hstep, hu, State.unlessPastLimit, andThen_next, hlimit, if_neg (Nat.not_le.mpr hgt), htake]
    · rw [hstep, hr]
      rfl
    · rw [hstep, hf]
      rfl

/-- Settles O9: no trap and no source wakes the CPU, and the environment leaves its mode and PC. -/
theorem levelZeroSourceCannotWake : Obligations.LevelZeroSourceCannotWake := by
  intro s hmode htrap hzero
  have hasleep : s.fresh.wakeable = false := by
    rw [Bool.eq_false_iff, ne_eq, State.wakeable_iff]
    rintro (⟨n, himpl, hifs, hiec, hlevel⟩ | ⟨t, ht⟩)
    · have := hzero n himpl hifs hiec
      change 1 ≤ (s.ipcOf n).toNat at hlevel
      omega
    · exact State.trapWinner_eq_none_iff.mp htrap t ht
  have hstep := step_of_asleep hmode hasleep
  refine ⟨hstep, fun hreset hosc => ⟨_, hstep, ?_⟩⟩
  have hsame := State.dormancy_events (s := { s.fresh with env := s.env.tail }) rfl rfl hreset hosc
  simp only [State.dormancy, Prod.mk.injEq] at hsame
  obtain ⟨hm, hpc, -⟩ := hsame
  exact ⟨hm, hpc⟩

/-- Settles O10. -/
theorem enabledSourceWakes : Obligations.EnabledSourceWakes := by
  intro s _ hwakes
  have hwinner : State.winner { s with mode := .run } = s.winner := by
    have hwake := State.winner_wake s
    rwa [State.wake_of_wakeable (State.wakeable_iff.mpr hwakes)] at hwake
  rw [step_of_awake (.inr (State.wakeable_iff.mpr hwakes)), step_of_awake (s := { s with mode := .run }) (.inl rfl), hwinner]

end Sys2Proof.Proofs
end

section
/-! SUPPORT. The vector and the refusals of an exception entry (R63 to R65, R118, R119, D34), and the statements about them (O19,
O23). -/

namespace Sys2Proof.Machine

open Sys2Proof

/-! ### The vector -/

/-- Vector `v` of the IVT at its default base and distance (D2). -/
theorem ivt_location {v : Nat} (h : v < 254) : ((0x000004 : PAddr) + 2 * BitVec.ofNat 24 v).toNat = 4 + 2 * v := by
  have hfour : (0x000004 : PAddr).toNat = 4 := rfl
  have htwo : (2 : PAddr).toNat = 2 := rfl
  rw [BitVec.toNat_add, BitVec.toNat_mul, BitVec.toNat_ofNat, hfour, htwo]
  omega

/-- The bytes of a program word (R64). -/
theorem State.progWord_byte (s : State) (p : PAddr) {k : Nat} (hk : k < 3) :
    (s.progWord p).extractLsb' (8 * k) 8 = (Memory.get s.prog (2 * p.toNat + k)).getD 0xFF := by
  have hword (b0 b1 b2 : Byte) : (wordOfBytes b0 b1 b2).extractLsb' 0 8 = b0 ∧ (wordOfBytes b0 b1 b2).extractLsb' 8 8 = b1 ∧
      (wordOfBytes b0 b1 b2).extractLsb' 16 8 = b2 := by simpa [bytesOfWord] using bytesOfWord_wordOfBytes b0 b1 b2
  obtain ⟨h0, h1, h2⟩ := hword (s.progByte (2 * p.toNat)) (s.progByte (2 * p.toNat + 1)) (s.progByte (2 * p.toNat + 2))
  interval_cases k
  · exact h0
  · exact h1
  · exact h2

section
variable {s : State} {v : Nat}

theorem State.vectorAddress_aux (haux : s.dev.hasAux = true) (hin : s.dev.inAuxFlash s.pc = true) :
    s.vectorAddress v = some s.dev.auxVector := if_pos (by rw [haux, hin]; rfl)

/-- Away from Auxiliary Flash the vector is in the AIVT where all three of its conditions hold (R65). -/
theorem State.vectorAddress_away (haway : s.dev.hasAux = true → s.dev.inAuxFlash s.pc = false) : s.vectorAddress v =
    if s.dev.hasAivt = true ∧ s.dev.aivtConfigEnabled = true ∧ s.intcon2.getLsbD 8 = true
    then s.dev.aivtBase.map (· + s.dev.vecStride * BitVec.ofNat 24 v)
    else some (s.dev.ivtBase + s.dev.vecStride * BitVec.ofNat 24 v) := by
  have hno : (s.dev.hasAux && s.dev.inAuxFlash s.pc) = false := by
    cases h : s.dev.hasAux
    · rfl
    · exact haway h
  have hcond : (s.dev.hasAivt && s.dev.aivtConfigEnabled && s.aivten) = true ↔
      s.dev.hasAivt = true ∧ s.dev.aivtConfigEnabled = true ∧ s.intcon2.getLsbD 8 = true := by
    rw [Bool.and_eq_true, Bool.and_eq_true, and_assoc]
    rfl
  rw [State.vectorAddress, hno, if_neg Bool.false_ne_true]
  exact if_congr hcond rfl rfl

end

/-! ### The handler -/

section
variable {s : State} {e : Exc} {a : PAddr}

theorem State.takeException_refused {r : Refusal} (h : s.handler e = .error r) : s.takeException e = .refused r := by
  have h' : s.fresh.handler e = .error r := h
  simp only [State.takeException, h']

theorem State.handler_refused {r : Refusal} (h : s.entryRefusal e = some r) : s.handler e = .error r := by
  simp only [State.handler, h]

theorem State.handler_missing (h : s.entryRefusal e = none) (hv : s.vectorAddress e.vector = none) :
    s.handler e = .error .aivtBaseMissing := by
  simp only [State.handler, h, hv]

theorem State.handler_malformed (h : s.entryRefusal e = none) (hv : s.vectorAddress e.vector = some a)
    (hbits : (s.progWord a).getLsbD 0 = true ∨ (s.progWord a).getLsbD 23 = true) :
    s.handler e = .error (.malformedVector (s.progWord a)) := by
  simp only [State.handler, h, hv]
  exact if_pos (Bool.or_eq_true_iff.mpr hbits)

theorem State.handler_good (h : s.entryRefusal e = none) (hv : s.vectorAddress e.vector = some a)
    (h0 : (s.progWord a).getLsbD 0 = false) (h23 : (s.progWord a).getLsbD 23 = false) :
    s.handler e = .ok (s.progWord a) := by
  simp only [State.handler, h, hv, h0, h23]
  rfl

theorem State.takeException_of_handler (h : s.handler e = .ok a) : s.takeException e =
    andThen (s.fresh.push16 s.frame0) fun t1 => andThen (t1.push16 s.frame1) fun t2 =>
      .next ((t2.enterAfterPush e (e.level s) a).settle s.cpuIpl) := by
  have h' : s.fresh.handler e = .ok a := h
  simp only [State.takeException, h']
  rfl

/-- An entry does not interrupt a DO loop where there is none, and the trap of a DO stack overflow never does (R88, R145). -/
theorem State.interruptsDo_iff : s.interruptsDo e = true ↔
    s.corcon.extractLsb' 8 3 ≠ 0 ∧ ¬(e = .trap .genericSoft ∧ s.intcon3.getLsbD 4 = true) := by
  unfold State.interruptsDo State.dl
  cases e with
  | irq n => simp
  | trap t => simp [imp_iff_not_or]

theorem State.entryRefusal_of_clear
    (h : s.corcon.extractLsb' 8 3 = 0 ∨ (e = .trap .genericSoft ∧ s.intcon3.getLsbD 4 = true)) :
    s.entryRefusal e = s.ctxRefusal e := by
  refine if_neg fun hdo => ?_
  obtain ⟨hdl, hnot⟩ := State.interruptsDo_iff.mp hdo
  exact h.elim hdl hnot

/-- Why the alternate sets refuse an interrupt (R119, R194, D15). -/
theorem State.ctxRefusal_irq (n : Nat) : s.ctxRefusal (.irq n) =
    if s.dev.hasAltW = true ∧ s.dev.ctxt1 = s.dev.ctxt2 ∧ s.dev.ctxt1 ≠ 7 then some .contextClash
    else if s.dev.hasAltW = true ∧ s.intcon1.getLsbD 15 = true ∧ (s.dev.ctxt1 ≠ 7 ∨ s.dev.ctxt2 ≠ 7)
    then some .contextNoNesting else none := by
  simp [State.ctxRefusal, State.nstdis, and_assoc]

/-! ### Pushes onto INTCON2 -/

/-- A frame word on INTCON2 that would change DISI is refused (D11). -/
theorem State.push16_refused {w : Word} (hgood : s.badAccess .word s.w15 = false) (hsfr : s.dev.sfrAt s.w15 = some .intcon2)
    (hdisi : w.getLsbD 14 ≠ s.intcon2.getLsbD 14) : s.push16 w = .refused .disiBitWrite := by
  have hbit : (s.detected false (s.pastLimit s.w15)).disi = s.intcon2.getLsbD 14 := rfl
  rw [State.push16, State.pushStore, State.stackCheck_detected, Bool.or_false, State.detected_badAccess, State.detected_w15,
    if_neg (by simp [hgood]), State.storeWord_sfr (s := s.detected _ _) hsfr, State.writeSfr, if_pos, andThen_refused]
  rw [hbit]
  simpa using hdisi

/-- The frame's words, bit by bit where DISI is in INTCON2 (R61). -/
theorem State.frame_bit14 (s : State) : s.frame0.getLsbD 14 = s.pc.getLsbD 14 ∧ s.frame1.getLsbD 14 = s.sr.getLsbD 6 := by
  constructor
  · rw [State.frame0, BitVec.getLsbD_append]
    simp
  · rw [State.frame1, BitVec.getLsbD_append, BitVec.getLsbD_append]
    simp

end

end Sys2Proof.Machine

namespace Sys2Proof.Proofs

open Sys2Proof Sys2Proof.Machine

/-- Settles O19. -/
theorem vectorAddressSelection : Obligations.VectorAddressSelection := by
  intro s v
  refine ⟨State.vectorAddress_aux, fun haway => ⟨fun b haivt hconf hen hb => ?_, fun hno => ?_⟩, ?_,
    fun p k => State.progWord_byte s p⟩
  · rw [State.vectorAddress_away haway, if_pos ⟨haivt, hconf, hen⟩, hb]
    rfl
  · have hivt := (State.vectorAddress_away (v := v) haway).trans (if_neg hno)
    exact ⟨hivt, fun hbase hstride hv => ⟨_, hivt, by rw [hbase, hstride, ivt_location hv]⟩⟩
  · simp [Device.aivtConfigEnabled, Device.bootPages]

/-- Settles O23: the refusals of `State.handler` come before anything is stacked, and those of INTCON2 with the frame word on it. -/
theorem entryRefusals : Obligations.EntryRefusals := by
  intro s e
  have hdo (hdl : s.corcon.extractLsb' 8 3 ≠ 0) (hnot : ¬(e = .trap .genericSoft ∧ s.intcon3.getLsbD 4 = true)) :
      s.entryRefusal e = some .doInterrupted := if_pos (State.interruptsDo_iff.mpr ⟨hdl, hnot⟩)
  refine ⟨fun hdl hnot => State.takeException_refused (State.handler_refused (hdo hdl hnot)), State.entryRefusal_of_clear,
    fun a hnone hv hbits => State.takeException_refused (State.handler_malformed hnone hv hbits),
    fun hnone haway haivt hconf hen hbase => State.takeException_refused (State.handler_missing hnone ?_),
    ?_, ?_, ?_, fun a hnone hv h0 h23 => ⟨fun hgood hsfr hbit => ?_, fun hram hgood hsfr hbit => ?_⟩⟩
  · rw [State.vectorAddress_away haway, if_pos ⟨haivt, hconf, hen⟩, hbase]
    rfl
  · rintro n rfl haltw hdl
    have hrefusal := (State.entryRefusal_of_clear (e := .irq n) (.inl hdl)).trans (State.ctxRefusal_irq n)
    refine ⟨fun heq hne => ?_, fun hne hnstdis => ?_⟩
    · exact State.takeException_refused (State.handler_refused (hrefusal.trans (if_pos ⟨haltw, heq, hne⟩)))
    · have hone : s.dev.ctxt1 ≠ 7 ∨ s.dev.ctxt2 ≠ 7 := by
        by_contra hboth
        rw [not_or, not_not, not_not] at hboth
        exact hne (hboth.1.trans hboth.2.symm)
      refine State.takeException_refused (State.handler_refused (hrefusal.trans ?_))
      rw [if_neg fun ⟨_, heq, _⟩ => hne heq, if_pos ⟨haltw, hnstdis, hone⟩]
  · rintro n rfl hfree
    rw [State.ctxRefusal_irq, if_neg, if_neg]
    · rintro ⟨haltw, hnstdis, hone⟩
      rcases hfree with hno | ⟨h1, h2⟩ | ⟨-, hno⟩
      · exact Bool.false_ne_true (hno.symm.trans haltw)
      · exact hone.elim (· h1) (· h2)
      · exact Bool.false_ne_true (hno.symm.trans hnstdis)
    · rintro ⟨haltw, heq, hne⟩
      rcases hfree with hno | ⟨h1, -⟩ | ⟨hdiff, -⟩
      · exact Bool.false_ne_true (hno.symm.trans haltw)
      · exact hne h1
      · exact hdiff heq
  · rintro t rfl
    rfl
  · have hfirst : s.fresh.push16 s.frame0 = .refused .disiBitWrite :=
      State.push16_refused (s := s.fresh) hgood hsfr (s.frame_bit14.1.symm ▸ hbit)
    rw [State.takeException_of_handler (State.handler_good hnone hv h0 h23), hfirst, andThen_refused]
  · obtain ⟨m, hfirst, -, -⟩ := State.push16_ram_detected (s := s.fresh) s.frame0 hram
    have hsecond : State.push16 s.frame1 (({ s.fresh with w15 := s.fresh.w15 + 2, ram := m } : State).detected false
        (s.fresh.pastLimit s.fresh.w15)) = .refused .disiBitWrite :=
      State.push16_refused hgood hsfr (s.frame_bit14.2.symm ▸ hbit)
    rw [State.takeException_of_handler (State.handler_good hnone hv h0 h23), hfirst, andThen_next, hsecond, andThen_refused]

end Sys2Proof.Proofs
end

section
/-! SUPPORT. The pushes of an exception entry and the state that it enters (R61, R115 to R121): what every entry does whose frame lies
on data memory or cannot be pushed. -/

namespace Sys2Proof.Machine

open Sys2Proof

/-! ### The frame -/

/-- Each of the two words above W15 cannot be written or is a word of data memory. -/
def State.frameDecided (s : State) : Prop :=
  (s.badAccess .word s.w15 = true ∨ s.ramWordAt s.w15) ∧ (s.badAccess .word (s.w15 + 2) = true ∨ s.ramWordAt (s.w15 + 2))

/-- One of the two words above W15 cannot be written. -/
def State.frameBlocked (s : State) : Bool := s.badAccess .word s.w15 || s.badAccess .word (s.w15 + 2)

/-- Data memory `m` is that of `s` with the frame words `w0` and `w1` pushed, but for one that cannot be written (R59, R61). -/
structure State.FrameIn (s : State) (w0 w1 : Word) (m : Memory) : Prop where
  word0 : s.badAccess .word s.w15 = false → (s.setRam m).ramWord s.w15 = w0
  word1 : s.badAccess .word (s.w15 + 2) = false → (s.setRam m).ramWord (s.w15 + 2) = w1
  other : ∀ b, (s.badAccess .word s.w15 = true ∨ offWord s.w15 b) →
    (s.badAccess .word (s.w15 + 2) = true ∨ offWord (s.w15 + 2) b) → (s.setRam m).ramByte b = s.ramByte b

section
variable {s : State}

theorem State.frameDecided_of_pushable (h : s.framePushable) : s.frameDecided := ⟨.inr h.1, .inr h.2⟩

theorem State.frameBlocked_of_pushable (h : s.framePushable) : s.frameBlocked = false :=
  Bool.or_eq_false_iff.mpr ⟨h.1.1, h.2.1⟩

/-- W15 up by one word and data memory replaced. -/
def State.pushed (m : Memory) (s : State) : State := { s with w15 := s.w15 + 2, ram := m }

/-- A push of a word of an entry: an address error where the word cannot be written, else the word in data memory (R53, R59, R60). -/
theorem State.push16_detected (v : Word) (h : s.badAccess .word s.w15 = true ∨ s.ramWordAt s.w15) :
    ∃ m, s.push16 v = .next ((s.pushed m).detected (s.badAccess .word s.w15) (s.pastLimit s.w15)) ∧
      (s.badAccess .word s.w15 = false → (s.setRam m).ramWord s.w15 = v) ∧
      ∀ b, (s.badAccess .word s.w15 = true ∨ offWord s.w15 b) → (s.setRam m).ramByte b = s.ramByte b := by
  rcases h with hbad | hram
  · refine ⟨s.ram, ?_, fun hgood => absurd (hbad.symm.trans hgood) Bool.true_eq_false.mp, fun b _ => rfl⟩
    rw [State.push16_bad hbad, hbad]
    rfl
  · obtain ⟨m, hpush, hword, hoff⟩ := State.push16_ram_detected v hram
    have hgood := hram.1
    exact ⟨m, hgood ▸ hpush, fun _ => hword,
      fun b hb => hoff b (hb.resolve_left fun hbad => Bool.false_ne_true (hgood.symm.trans hbad))⟩

/-- The words of a frame do not overlap. -/
theorem State.offWord_frame : offWord (s.w15 + 2) s.w15 ∧ offWord (s.w15 + 2) (s.w15 + 1) :=
  ⟨⟨by bv_omega, by bv_omega⟩, ⟨by bv_omega, by bv_omega⟩⟩

/-- Both pushes of an entry detect what either detects. -/
theorem State.push_two_detected (w0 w1 : Word) (h : s.frameDecided) : ∃ m,
    (andThen (s.push16 w0) fun t => t.push16 w1) = .next (({ s with w15 := s.w15 + 4, ram := m } : State).detected s.frameBlocked
      (s.pastLimit s.w15 || s.pastLimit (s.w15 + 2))) ∧ s.FrameIn w0 w1 m := by
  obtain ⟨m1, hpush1, hword1, hoff1⟩ := State.push16_detected w0 h.1
  generalize hx : (s.pushed m1).detected (s.badAccess .word s.w15) (s.pastLimit s.w15) = x at hpush1
  have hdev : x.dev = s.dev := by rw [← hx]; rfl
  have hw15 : x.w15 = s.w15 + 2 := by rw [← hx]; rfl
  have hbad : x.badAccess .word x.w15 = s.badAccess .word (s.w15 + 2) := by rw [State.badAccess_congr hdev, hw15]
  have hbyte (m : Memory) (b : Word) : (x.setRam m).ramByte b = (s.setRam m).ramByte b := by rw [← hx]; rfl
  have hfirst (b : Word) : x.ramByte b = (s.setRam m1).ramByte b := by rw [← hx]; rfl
  have hdecided : x.badAccess .word x.w15 = true ∨ x.ramWordAt x.w15 := by
    rw [hbad, State.ramWordAt_congr hdev, hw15]
    exact h.2
  obtain ⟨m2, hpush2, hword2, hoff2⟩ := State.push16_detected w1 hdecided
  rw [hbad] at hpush2 hword2 hoff2
  rw [hw15] at hpush2 hword2 hoff2
  refine ⟨m2, ?_, fun hgood => ?_, fun hgood => ?_, fun b hb1 hb2 => ?_⟩
  · have hsum : s.w15 + 2 + 2 = s.w15 + 4 := by bv_omega
    have hsame : x.pushed m2 = ({ s with w15 := s.w15 + 4, ram := m2 } : State).detected (s.badAccess .word s.w15)
        (s.pastLimit s.w15) := by
      rw [← hx, ← hsum]
      rfl
    have hpast : x.pastLimit (s.w15 + 2) = s.pastLimit (s.w15 + 2) := by rw [← hx]; rfl
    rw [hpush1, andThen_next, hpush2, hsame, State.detected_detected, hpast]
    rfl
  · obtain ⟨hlow, hhigh⟩ := State.offWord_frame (s := s)
    rw [← hword1 hgood, State.ramWord, State.ramWord, ← hbyte, ← hbyte, hoff2 _ (.inr hlow), hoff2 _ (.inr hhigh), hfirst,
      hfirst]
  · rw [← hword2 hgood, State.ramWord, State.ramWord, hbyte, hbyte]
  · rw [← hbyte, hoff2 b hb2, hfirst, hoff1 b hb1]

end

/-! ### The state entered -/

/-- What an entry at level `level` leaves, its address and stack errors apart: the frame is in data memory `m`, and control goes to
`target` (R115 to R120). -/
def State.entered (e : Exc) (level : Nat) (target : PAddr) (m : Memory) (s : State) : State :=
  { ((({ s with w15 := s.w15 + 4, ram := m, log := {} } : State).setSfa false).enterPriority e level |>.latch e level
      |>.selectCtx e level) with pc := target, skid := 0, mode := .run }

/-- A stack check of an entry fails: the overflow check of a push, or the underflow check of the W15 that they leave (R99, R133). -/
def State.entryStk (s : State) : Bool := s.pastLimit s.w15 || s.pastLimit (s.w15 + 2) || decide (s.w15 + 4 < 0x1000)

theorem State.entryStk_iff {s : State} :
    s.entryStk = true ↔ s.overLimit s.w15 ∨ s.overLimit (s.w15 + 2) ∨ s.w15 + 4 < 0x1000 := by
  rw [State.entryStk, Bool.or_eq_true, Bool.or_eq_true, State.pastLimit_iff, State.pastLimit_iff, decide_eq_true_eq, or_assoc]

section
variable {s : State} {e : Exc} {level : Nat} {a : PAddr} {m : Memory}

/-- NSTDIS is no flag of a detected condition (R17). -/
theorem State.detected_enterPriority (s : State) (b k : Bool) :
    (s.detected b k).enterPriority e level = (s.enterPriority e level).detected b k := by
  cases e with
  | trap t => rfl
  | irq n =>
    have hnstdis : (s.detected b k).nstdis = s.nstdis := by
      rw [State.nstdis, State.getLsbD_detected]
      simp [State.nstdis]
    simp only [State.enterPriority, hnstdis]
    rfl

theorem State.detected_latch (s : State) (b k : Bool) : (s.detected b k).latch e level = (s.latch e level).detected b k := by
  cases e <;> rfl

theorem State.detected_selectCtx (s : State) (b k : Bool) :
    (s.detected b k).selectCtx e level = (s.selectCtx e level).detected b k := by
  have hdev : (s.detected b k).dev = s.dev := rfl
  unfold State.selectCtx
  rw [hdev]
  split
  · cases e <;> rfl
  · rfl

/-- After both pushes the entry makes the state entered, and the underflow check is on the W15 that they leave (R133). -/
theorem State.enterAfterPush_detected (b k : Bool) :
    (({ s.fresh with w15 := s.w15 + 4, ram := m } : State).detected b k).enterAfterPush e level a =
      (s.entered e level a m).detected b (k || decide (s.w15 + 4 < 0x1000)) := by
  generalize hx : ({ s with w15 := s.w15 + 4, ram := m, log := {} } : State) = x
  have hstart : ({ s.fresh with w15 := s.w15 + 4, ram := m } : State) = x := hx
  have hsfa : ({ (x.detected b k) with corcon := setBit (x.detected b k).corcon 2 false } : State) =
      (x.setSfa false).detected b k := rfl
  have hafter (y : State) : (y.detected b k).underflowCheck = y.detected b (k || decide (y.w15 < 0x1000)) := by
    rw [State.underflowCheck_detected, State.detected_detected, Bool.or_false]
    rfl
  have hw15 : (((x.setSfa false).enterPriority e level).latch e level |>.selectCtx e level).w15 = s.w15 + 4 := by
    simp [← hx, State.setSfa]
  rw [hstart, State.enterAfterPush, hsfa]
  simp only [State.detected_enterPriority, State.detected_latch, State.detected_selectCtx, hafter]
  rw [hw15, State.entered, hx]
  rfl

/-- Every entry whose frame lies on data memory or cannot be pushed ends with what its pushes and the underflow check detect. -/
theorem State.takeException_entered (hdecided : s.frameDecided) (h : s.handler e = .ok a) : ∃ m,
    s.takeException e = .next (((s.entered e (e.level s) a m).detected s.frameBlocked s.entryStk).settle s.cpuIpl) ∧
      s.FrameIn s.frame0 s.frame1 m := by
  obtain ⟨m, hpush, hin⟩ := State.push_two_detected (s := s.fresh) s.frame0 s.frame1 hdecided
  refine ⟨m, ?_, hin.word0, hin.word1, hin.other⟩
  rw [State.takeException_of_handler h, ← andThen_assoc (f := fun t => t.push16 s.frame1), hpush, andThen_next]
  exact congrArg (fun x => Host.Outcome.next (State.settle s.cpuIpl x)) (State.enterAfterPush_detected (s := s) _ _)

end

end Sys2Proof.Machine
end

section
/-! SUPPORT. What an exception entry writes (R115 to R121), and the statements about it (O20 to O22). -/

namespace Sys2Proof.Machine

open Sys2Proof

/-! ### Status registers -/

/-- IPL<2:0> written leaves the rest of SR (R12, R117). -/
theorem setIplField_other (sr : Word) (l : BitVec 3) : setIplField sr l &&& 0xFF1F = sr &&& 0xFF1F :=
  mergeBits_and_not_mask sr _ 0x00E0

/-- The four reserved bits of INTTREG stay 0 when it is latched (R25). -/
theorem latched_reserved (l : BitVec 4) (v : Byte) : (0#4 ++ l ++ v) &&& 0xF000 = (0 : Word) := by
  apply BitVec.eq_of_getLsbD_eq
  intro i hi
  simp only [BitVec.getLsbD_and, BitVec.getLsbD_append]
  interval_cases i <;> simp

/-- A trap's level is 8 and its low three bits. -/
theorem Trap.level_split (d : Device) (tr : Trap) :
    8 + (BitVec.ofNat 3 (tr.level d - 8)).toNat = tr.level d ∧ tr.level d < 16 := by
  cases tr with
  | genericSoft => rcases Device.gstLevel_eq d with h | h <;> simp [Trap.level, h]
  | _ => simp [Trap.level]

section
variable {s x : State} {a : PAddr} {m : Memory}

/-- The register set in use after the entry of an interrupt of level `level` (R26, R119). -/
def State.entryCtx (s : State) (level : Nat) : Ctx :=
  if s.dev.hasAltW then (ctxFor s.dev level).getD s.activeCtx else s.activeCtx

/-- The register sets stacked after an entry (R119). -/
def State.entryCtxStack (s : State) : List Ctx := if s.dev.hasAltW then s.activeCtx :: s.ctxStack else s.ctxStack

theorem State.entered_trap (tr : Trap) (level : Nat) : s.entered (.trap tr) level a m = { s with
    pc := a, w15 := s.w15 + 4, ram := m, corcon := setBit (setBit s.corcon 2 false) 3 true
    sr := setIplField s.sr (BitVec.ofNat 3 (level - 8))
    inttreg := 0#4 ++ BitVec.ofNat 4 level ++ Config.freeVecnum s.free, ctxStack := s.entryCtxStack
    skid := 0, mode := .run, free := s.free + 1, log := {} } := by
  cases h : s.dev.hasAltW <;> simp [State.entered, State.setSfa, State.enterPriority, State.latch, State.selectCtx,
    State.entryCtxStack, h]

theorem State.entered_irq (n level : Nat) : s.entered (.irq n) level a m = { s with
    pc := a, w15 := s.w15 + 4, ram := m, corcon := setBit s.corcon 2 false
    sr := setIplField s.sr (if s.nstdis then 7 else BitVec.ofNat 3 level)
    inttreg := 0#4 ++ BitVec.ofNat 4 level ++ BitVec.ofNat 8 n, activeCtx := s.entryCtx level
    ctxStack := s.entryCtxStack, skid := 0, mode := .run, log := {} } := by
  cases h : s.dev.hasAltW <;> simp [State.entered, State.setSfa, State.enterPriority, State.latch, State.selectCtx,
    State.entryCtxStack, State.entryCtx, State.nstdis, h]

end

/-! ### The working registers -/

/-- W0 to W14 are read from the active set where it replaces them (R11, R119). -/
theorem State.readW_banked (x : State) (j : Fin 15) : x.readW ⟨j.val, by omega⟩ =
    if x.dev.hasAltW = true ∧ x.dev.altRegs.getLsbD j.val = true ∧ x.activeCtx = .alt1 then x.alt1[j]
    else if x.dev.hasAltW = true ∧ x.dev.altRegs.getLsbD j.val = true ∧ x.activeCtx = .alt2 then x.alt2[j]
    else x.w[j] := by
  rw [State.readW, dif_pos j.isLt]
  by_cases hbank : x.dev.hasAltW = true ∧ x.dev.altRegs.getLsbD j.val = true
  · have hof : x.bankOf j.val = x.activeCtx := if_pos (by simpa using hbank)
    rw [hof]
    cases hctx : x.activeCtx <;> simp [hbank.1, hbank.2]
  · have hof : x.bankOf j.val = .default := if_neg (by simpa using hbank)
    rw [hof, if_neg fun h => hbank ⟨h.1, h.2.1⟩, if_neg fun h => hbank ⟨h.1, h.2.1⟩]
    rfl

/-! ### What an entry leaves -/

/-- State `x` is what the entry of `e` at `target` makes of `s` with data memory `m`, its address and stack errors apart (R115 to
R121). -/
structure State.Entry (s : State) (e : Exc) (target : PAddr) (m : Memory) (x : State) : Prop where
  pc : x.pc = target
  w15 : x.w15 = s.w15 + 4
  ram : x.ram = m
  sfa : x.corcon.getLsbD 2 = false
  corcon : x.corcon &&& 0xFFF3 = s.corcon &&& 0xFFF3
  sr : x.sr &&& 0xFF1F = s.sr &&& 0xFF1F
  trap : ∀ tr, e = .trap tr → s.entersTrap x tr
  irq : ∀ n, e = .irq n → s.entersIrq x n ∧ x.corcon &&& 0xFFFB = s.corcon &&& 0xFFFB ∧ x.free = s.free
  reserved : x.inttreg &&& 0xF000 = 0
  ctxStack : x.ctxStack = if s.dev.hasAltW then s.activeCtx :: s.ctxStack else s.ctxStack
  shape : x = { s with
    pc := x.pc, w15 := x.w15, ram := x.ram, corcon := x.corcon, sr := x.sr, inttreg := x.inttreg
    activeCtx := x.activeCtx, ctxStack := x.ctxStack, skid := 0, mode := .run, free := x.free, log := {} }

section
variable {s x : State} {e : Exc} {a : PAddr} {m : Memory}

theorem State.Entry.log (h : s.Entry e a m x) : x.log = {} := by rw [h.shape]

theorem State.Entry.flags (h : s.Entry e a m x) : x.intcon1 = s.intcon1 := by rw [h.shape]

theorem State.Entry.dev (h : s.Entry e a m x) : x.dev = s.dev := by rw [h.shape]

theorem State.entry_trap (tr : Trap) : s.Entry (.trap tr) a m (s.entered (.trap tr) (tr.level s.dev) a m) := by
  obtain ⟨hlevel, hlt⟩ := tr.level_split s.dev
  rw [State.entered_trap]
  refine ⟨rfl, rfl, rfl, by simp, (setBit_and_of_unselected (by decide)).trans (setBit_and_of_unselected (by decide)),
    setIplField_other _ _, ?_, nofun, latched_reserved _ _, rfl, rfl⟩
  rintro _ ⟨⟩
  refine ⟨by simp, ?_, ?_, rfl⟩
  · rw [State.cpuIpl, State.ipl3, State.ipl, extract_setIplField]
    simpa using hlevel
  · rw [State.ilr, extract_middle_append, BitVec.toNat_ofNat]
    exact Nat.mod_eq_of_lt hlt

theorem State.entry_irq (n : Nat) : s.Entry (.irq n) a m (s.entered (.irq n) (s.ipcOf n).toNat a m) := by
  rw [State.entered_irq]
  refine ⟨rfl, rfl, rfl, by simp, setBit_and_of_unselected (by decide), setIplField_other _ _, nofun, ?_,
    latched_reserved _ _, rfl, rfl⟩
  rintro _ ⟨⟩
  refine ⟨⟨by simp, ?_, ?_, fun hn => ?_, ?_, State.readW_banked _⟩, setBit_and_of_unselected (by decide), rfl⟩
  · rw [extract_setIplField, BitVec.ofNat_toNat, BitVec.setWidth_eq]
    rfl
  · rw [State.ilr, extract_middle_append, BitVec.toNat_ofNat]
    exact Nat.mod_eq_of_lt (Nat.lt_of_lt_of_le (s.ipcOf n).isLt (by decide))
  · rw [State.vecnum, BitVec.extractLsb'_append_eq_right, BitVec.toNat_ofNat]
    exact Nat.mod_eq_of_lt (Nat.lt_trans hn (by decide))
  · change s.entryCtx _ = _
    simp only [State.entryCtx, ctxFor, apply_ite fun o => Option.getD o s.activeCtx]
    rfl

theorem State.entry_entered (s : State) (e : Exc) (a : PAddr) (m : Memory) : s.Entry e a m (s.entered e (e.level s) a m) := by
  cases e with
  | trap tr => exact State.entry_trap tr
  | irq n => exact State.entry_irq n

/-- Every entry whose frame lies on data memory or cannot be pushed, by what it leaves and what it detects (R115, R133). -/
theorem State.takeException_entry (hdecided : s.frameDecided) (h : s.handler e = .ok a) : ∃ m x,
    s.takeException e = .next ((x.detected s.frameBlocked s.entryStk).settle s.cpuIpl) ∧ s.Entry e a m x ∧
      s.FrameIn s.frame0 s.frame1 m := by
  obtain ⟨m, hrun, hin⟩ := State.takeException_entered hdecided h
  exact ⟨m, _, hrun, s.entry_entered e a m, hin⟩

theorem State.Entry.stk (h : s.Entry e a m x) :
    s.entryStk = true ↔ s.overLimit s.w15 ∨ s.overLimit (s.w15 + 2) ∨ x.w15 < 0x1000 := by
  rw [h.w15]
  exact State.entryStk_iff

theorem State.Entry.ramByte (h : s.Entry e a m x) (b : Word) : x.ramByte b = (s.setRam m).ramByte b := by
  rw [h.shape, ← h.ram]
  rfl

theorem State.Entry.ramWord (h : s.Entry e a m x) (b : Word) : x.ramWord b = (s.setRam m).ramWord b := by
  rw [State.ramWord, State.ramWord, h.ramByte, h.ramByte]

end

end Sys2Proof.Machine

namespace Sys2Proof.Proofs

open Sys2Proof Sys2Proof.Machine

section
variable {s : State} {e : Exc} {a : PAddr}

/-- Over a frame that can be pushed the entry of `e` at `a` is made, and detects a stack error at most (R115, R133). -/
theorem takeException_pushable (hframe : s.framePushable) (h : s.handler e = .ok a) : ∃ m x,
    s.takeException e = .next (x.detected false s.entryStk) ∧ s.Entry e a m x ∧
      x.ramWord s.w15 = s.frame0 ∧ x.ramWord (s.w15 + 2) = s.frame1 ∧
      ∀ b, offWord s.w15 b → offWord (s.w15 + 2) b → x.ramByte b = s.ramByte b := by
  obtain ⟨m, x, hrun, hx, hin⟩ := State.takeException_entry (State.frameDecided_of_pushable hframe) h
  rw [State.frameBlocked_of_pushable hframe, State.settle_detected_stk hx.log] at hrun
  exact ⟨m, x, hrun, hx, (hx.ramWord _).trans (hin.word0 hframe.1.1), (hx.ramWord _).trans (hin.word1 hframe.2.1),
    fun b h0 h1 => (hx.ramByte b).trans (hin.other b (.inr h0) (.inr h1))⟩

end

/-- Settles O20. -/
theorem trapEntryResult : Obligations.TrapEntryResult := by
  intro s e a hframe hdo hv h0 h23
  have hclear : s.entryRefusal (.trap e) = none :=
    State.entryRefusal_of_clear (hdo.imp_right fun ⟨he, hd⟩ => ⟨congrArg Exc.trap he, hd⟩)
  have hgood := State.handler_good hclear hv h0 h23
  obtain ⟨m, x, hrun, hx, hlow, hhigh, hoff⟩ := takeException_pushable hframe hgood
  have hset := hx.trap e rfl
  have ⟨_, _, _, hctx⟩ := hset
  refine ⟨_, hrun, hx.pc, hx.w15, hlow, hhigh, hoff, hx.sfa, hx.corcon, hx.sr, hset, hx.reserved, hx.ctxStack,
    stackFlag_detected hx.flags hx.stk, State.quiet_detected hx.log, ?_⟩
  have hshape := hx.shape
  rw [hctx] at hshape
  rw [hshape]
  rfl

/-- Settles O21. -/
theorem interruptEntryResult : Obligations.InterruptEntryResult := by
  intro s n a _ hframe hdl hctx hv h0 h23
  have hgood := State.handler_good ((State.entryRefusal_of_clear (.inl hdl)).trans hctx) hv h0 h23
  obtain ⟨m, x, hrun, hx, hlow, hhigh, hoff⟩ := takeException_pushable hframe hgood
  obtain ⟨hset, hcorcon, hfree⟩ := hx.irq n rfl
  refine ⟨_, hrun, hx.pc, hx.w15, hlow, hhigh, hoff, hx.sfa, hcorcon, hx.sr, hset, hx.reserved, hx.ctxStack,
    stackFlag_detected hx.flags hx.stk, State.quiet_detected hx.log, ?_⟩
  have hshape := hx.shape
  rw [hfree] at hshape
  rw [hshape]
  rfl

/-- Settles O22: the pushes of a blocked frame detect the address error, and the rest of the entry is that of any other. -/
theorem entryOnBadStack : Obligations.EntryOnBadStack := by
  intro s e a hnone hv h0 h23 hbad hlow hhigh
  obtain ⟨m, x, hrun, hx, hin⟩ := State.takeException_entry ⟨hlow, hhigh⟩ (State.handler_good hnone hv h0 h23)
  have hblocked : s.frameBlocked = true := Bool.or_eq_true_iff.mpr hbad
  have hflags1 : x.intcon1.getLsbD 1 = s.intcon1.getLsbD 1 := congrArg (·.getLsbD 1) hx.flags
  rw [hblocked] at hrun
  constructor
  · intro hfree
    rw [State.settle_detected hx.log hflags1 fun _ => hfree] at hrun
    obtain ⟨haddr, hother, hstk⟩ := State.addrErrorSet_detected hx.flags hx.stk
    refine ⟨_, hrun, hx.pc, hx.w15, haddr, hother, hstk, fun hgood => (hx.ramWord _).trans (hin.word0 hgood),
      fun hgood => (hx.ramWord _).trans (hin.word1 hgood), fun b h0 h1 => (hx.ramByte b).trans (hin.other b h0 h1), hx.sfa,
      hx.corcon, hx.sr, hx.trap, fun n hn => (hx.irq n hn).1, hx.reserved, hx.ctxStack, State.addrLogged_detected hx.log, ?_⟩
    rw [hx.shape]
    rfl
  · intro hnot
    rw [State.settle_addr_conflict hx.log hflags1 hnot] at hrun
    refine ⟨_, hrun, ?_⟩
    rw [hx.shape]
    exact State.conflictReset_deviceReset ⟨rfl, rfl, rfl⟩ rfl rfl

end Sys2Proof.Proofs
end

section
/-! SUPPORT. RETFIE after an exception entry (R81, R115, R122), and the statement about it (O26). -/

namespace Sys2Proof.Machine

open Sys2Proof

/-! ### The frame words -/

section
variable (s : State)

theorem State.frame0_pc : s.frame0.extractLsb' 1 15 = s.pc.extractLsb' 1 15 := by
  rw [State.frame0, BitVec.extractLsb'_append_eq_left]

theorem State.frame0_sfa : s.frame0.getLsbD 0 = s.corcon.getLsbD 2 := by
  rw [State.frame0, BitVec.getLsbD_append]
  simp [State.sfa]

theorem State.frame1_pc : s.frame1.extractLsb' 0 7 = s.pc.extractLsb' 16 7 := by
  rw [State.frame1, BitVec.extractLsb'_append_eq_right]

theorem State.frame1_ipl3 : s.frame1.getLsbD 7 = s.corcon.getLsbD 3 := by
  rw [State.frame1, BitVec.getLsbD_append, BitVec.getLsbD_append]
  simp [State.ipl3]

theorem State.frame1_srl : s.frame1.extractLsb' 8 8 = s.sr.extractLsb' 0 8 := extract_high_append (c := 7) (b := 1) ..

end

/-- A word is known by two of its bits and the rest of them. -/
theorem eq_of_bits_two_three {v v' : Word} (h2 : v.getLsbD 2 = v'.getLsbD 2) (h3 : v.getLsbD 3 = v'.getLsbD 3)
    (hrest : v &&& 0xFFF3 = v' &&& 0xFFF3) : v = v' := by
  apply BitVec.eq_of_getLsbD_eq
  intro i hi
  have hbit := congrArg (·.getLsbD i) hrest
  simp only [BitVec.getLsbD_and] at hbit
  by_cases hi2 : i = 2
  · exact hi2 ▸ h2
  by_cases hi3 : i = 3
  · exact hi3 ▸ h3
  have hmask : (0xFFF3 : Word).getLsbD i = true := by
    have hrest : ∀ i < 16, i ≠ 2 → i ≠ 3 → (0xFFF3 : Word).getLsbD i = true := by decide
    exact hrest i hi hi2 hi3
  rwa [hmask, Bool.and_true, Bool.and_true] at hbit

/-- The upper byte of SR with the lower one of the frame is SR again (R81, R122). -/
theorem sr_restored {s : State} {sr : Word} (h : sr &&& 0xFF1F = s.sr &&& 0xFF1F) :
    sr.extractLsb' 8 8 ++ s.frame1.extractLsb' 8 8 = s.sr := by
  have hupper : sr.extractLsb' 8 8 = s.sr.extractLsb' 8 8 := by
    have hmask : (0xFF1F : Word).extractLsb' 8 8 = BitVec.allOnes 8 := by decide
    have hfield := congrArg (·.extractLsb' 8 8) h
    simpa only [BitVec.extractLsb'_and, hmask, BitVec.and_allOnes] using hfield
  rw [s.frame1_srl, hupper]
  exact BitVec.extractLsb'_append_extractLsb' (w := 8)

/-! ### The register set -/

/-- RETFIE takes back the register set that the entry stacked (R81, R119, R122). -/
theorem State.Entry.ctx_restored {s x u : State} {e : Exc} {a : PAddr} {m : Memory} (h : s.Entry e a m x)
    (hu : x.restoresCtx u) : u.activeCtx = s.activeCtx ∧ u.ctxStack = s.ctxStack := by
  obtain ⟨hset, hnone⟩ := hu
  have hstack := h.ctxStack
  rw [h.dev] at hset hnone
  cases halt : s.dev.hasAltW
  · have hsame : x.activeCtx = s.activeCtx := by
      cases e with
      | trap tr =>
        obtain ⟨-, -, -, hctx⟩ := h.trap tr rfl
        exact hctx
      | irq n =>
        obtain ⟨⟨-, -, -, -, hctx, -⟩, -, -⟩ := h.irq n rfl
        rwa [halt] at hctx
    rw [halt] at hstack
    obtain ⟨hactive, hsets⟩ := hnone (.inl halt)
    exact ⟨hactive.trans hsame, hsets.trans hstack⟩
  · rw [halt] at hstack
    exact hset halt _ _ hstack

end Sys2Proof.Machine

namespace Sys2Proof.Proofs

open Sys2Proof Sys2Proof.Machine

/-- Settles O26: the frame that the entry pushed is the one that RETFIE pops. -/
theorem returnUndoesEntry : Obligations.ReturnUndoesEntry := by
  intro s t e hframe heven hbelow ht
  obtain ⟨target, -, -, hgood, -, -, -⟩ := State.takeException_cases ht
  obtain ⟨m, x, hrun, hx, hlow, hhigh, hoff⟩ := takeException_pushable hframe (e := e) hgood
  obtain rfl : t = x.detected false s.entryStk := Host.Outcome.next.inj (ht.symm.trans hrun)
  obtain ⟨t, ht⟩ : ∃ t, t = x.detected false s.entryStk := ⟨_, rfl⟩
  have hw15 : t.w15 = s.w15 + 4 := ht ▸ hx.w15
  have hdev : t.dev = s.dev := ht ▸ hx.dev
  have htop : t.w15 - 2 = s.w15 + 2 := by rw [hw15]; bv_omega
  have hbottom : t.w15 - 4 = s.w15 := by rw [hw15]; bv_omega
  have hpoppable : t.framePoppable := by
    rw [State.framePoppable, htop, hbottom, State.ramWordAt_congr hdev, State.ramWordAt_congr hdev]
    exact hframe.symm
  have hfirst : t.ramWord s.w15 = s.frame0 := ht ▸ hlow
  have hsecond : t.ramWord (s.w15 + 2) = s.frame1 := ht ▸ hhigh
  obtain ⟨u, hexec, huw15, hpc, hsr, hipl3, hsfa, hcorcon, hctx, hstk, hquiet, hshape⟩ := retfieResult t hpoppable
  rw [hbottom] at huw15
  rw [htop, hbottom, hfirst, hsecond] at hpc
  rw [htop, hsecond] at hsr hipl3
  rw [hbottom, hfirst] at hsfa
  rw [ht] at hexec hctx hshape hsr hcorcon hstk
  have hupc : u.pc = s.pc := hpc.trans (framePc_of_slices s.frame0_pc s.frame1_pc heven hbelow)
  have husr : u.sr = s.sr := hsr.trans (sr_restored hx.sr)
  have hucorcon : u.corcon = s.corcon := eq_of_bits_two_three (hsfa.trans s.frame0_sfa) (hipl3.trans s.frame1_ipl3)
    (hcorcon.trans hx.corcon)
  obtain ⟨hactive, hsets⟩ := hx.ctx_restored hctx
  have hflags : u.intcon1 &&& 0xFFFB = s.intcon1 &&& 0xFFFB :=
    (stackFlag_other hstk).trans (stackFlag_other (stackFlag_detected hx.flags hx.stk))
  refine ⟨u, hexec, ?_, hquiet, hflags, fun b h0 h1 => ?_⟩
  · rw [hshape, huw15, hupc, husr, hucorcon, hactive, hsets, hx.shape]
    rfl
  · rw [hshape]
    exact hoff b h0 h1

end Sys2Proof.Proofs
end

section
/-! SUPPORT. Instructions that end in an address error, whether it conflicts or not (R53 to R57, R92, R99, R127), and the statement on
the conflicts of accesses and of SWTRAP and SGHT (O47). -/

namespace Sys2Proof.Machine

open Sys2Proof

/-! ### An instruction underway -/

/-- State `x`, which an instruction begun in `s` has come to, has nothing logged, and OSCFAIL, the program, the device, the script and
the pins of `s`. -/
structure State.Underway (s x : State) : Prop where
  log : x.log = {}
  osc : x.intcon1.getLsbD 1 = s.intcon1.getLsbD 1
  program : s.sameProgram x
  env : x.env = s.env
  pins : x.pins = s.pins

namespace State.Underway

variable {s x y : State}

theorem fresh (s : State) : s.Underway s.fresh := ⟨rfl, rfl, ⟨rfl, rfl, rfl⟩, rfl, rfl⟩

theorem congr (h : s.Underway x) (hlog : y.log = x.log) (hosc : y.intcon1.getLsbD 1 = x.intcon1.getLsbD 1)
    (hprogram : x.sameProgram y) (henv : y.env = x.env) (hpins : y.pins = x.pins) : s.Underway y where
  log := hlog.trans h.log
  osc := hosc.trans h.osc
  program :=
    have ⟨hprog, hsym, hdev⟩ := h.program
    have ⟨hprog', hsym', hdev'⟩ := hprogram
    ⟨hprog'.trans hprog, hsym'.trans hsym, hdev'.trans hdev⟩
  env := henv.trans h.env
  pins := hpins.trans h.pins

theorem draw (h : s.Underway x) : s.Underway x.draw := h.congr rfl rfl ⟨rfl, rfl, rfl⟩ rfl rfl

theorem execFlags (h : s.Underway x) : s.Underway x.execFlags := h.congr rfl rfl ⟨rfl, rfl, rfl⟩ rfl rfl

theorem setPc {a : PAddr} (h : s.Underway x) : s.Underway (x.setPc a) := h.congr rfl rfl ⟨rfl, rfl, rfl⟩ rfl rfl

theorem setSfa {b : Bool} (h : s.Underway x) : s.Underway (x.setSfa b) := h.congr rfl rfl ⟨rfl, rfl, rfl⟩ rfl rfl

theorem skipNext (h : s.Underway x) : s.Underway x.skipNext := h.congr rfl rfl ⟨rfl, rfl, rfl⟩ rfl rfl

theorem writeW {i : WReg} {v : Word} (h : s.Underway x) : s.Underway (x.writeW i v) :=
  h.congr (by simp) (by simp) ⟨by simp, by simp, by simp⟩ (by simp) (by simp)

theorem freeRegs {is : List WReg} (h : s.Underway x) : s.Underway (x.freeRegs is) :=
  h.congr (by simp) (by simp) ⟨by simp, by simp, by simp⟩ (by simp) (by simp)

/-- The events of a MAC set no OSCFAIL (R135, R136). -/
theorem macResult {acc : AccSel} (h : s.Underway x) : s.Underway (x.macResult acc) := by
  obtain ⟨v, c, free, -, -, hflags, -⟩ := State.macResult_flags acc x
  have hosc : (x.macResult acc).intcon1.getLsbD 1 = x.intcon1.getLsbD 1 := by
    simpa using congrArg (·.getLsbD 1) (State.macResult_and_other hflags)
  exact h.congr (by simp) hosc ⟨by simp, by simp, by simp⟩ (by simp) (by simp)

end State.Underway

/-! ### An instruction that ends in an address error -/

/-- Instruction `i` detects the address error and ends; what its conflict is judged by is as it was at its begin. -/
def State.endsInAddrError (s : State) (i : Instr) : Prop :=
  ∃ x k, exec i s = .next ((x.detected true k).settle s.cpuIpl) ∧ s.Underway x

section
variable {s x : State} {i : Instr}

theorem State.endsInAddrError_of_finish {used k : Bool} (hx : s.Underway x)
    (h : exec i s = .next (s.fresh.finish used (x.detected true k))) : s.endsInAddrError i := by
  simp only [State.finish, State.detected_advance, State.underflowAfter_detected, State.detected_detected, Bool.or_false] at h
  exact ⟨_, _, h, hx.setPc⟩

theorem State.endsInAddrError_of_finishStack {k : Bool} (hx : s.Underway x)
    (h : exec i s = .next (s.fresh.finishStack (x.detected true k))) : s.endsInAddrError i := by
  simp only [State.finishStack, State.detected_advance, State.underflowCheck_detected, State.detected_detected,
    Bool.or_false] at h
  exact ⟨_, _, h, hx.setPc⟩

/-- An address error that conflicts resets the device, whatever the instruction (R127). -/
theorem State.conflictReset_of_endsInAddrError (h : s.endsInAddrError i) (hnot : ¬s.addrErrorFree) :
    ∃ t, exec i s = .next t ∧ s.conflictReset t := by
  obtain ⟨x, k, hrun, hx⟩ := h
  rw [State.settle_addr_conflict hx.log hx.osc hnot] at hrun
  exact ⟨_, hrun, State.conflictReset_deviceReset hx.program hx.env hx.pins⟩

/-! ### Writes -/

theorem State.endsInAddrError_bitManip {size : Size} {bit : Fin 16} {op : Operand} {w : WReg} (hop : Operand.through op w)
    (hbad : (s.readW w).getLsbD 0 = true ∨ (op = .indirect w ∧ s.badAccess size (s.readW w) = true) ∨
      (op = .paged w ∧ (s.dsrpag = 0 ∨ s.dswpag = 0))) : s.endsInAddrError (.bitManip size bit op) := by
  cases hodd : (s.readW w).getLsbD 0
  · have hbad' := hbad.resolve_left (ne_of_eq_of_ne hodd Bool.false_ne_true)
    exact State.endsInAddrError_of_finish (State.Underway.fresh s).execFlags (exec_bitManip_bad hop hodd hbad')
  · exact State.endsInAddrError_of_finish (State.Underway.fresh s) (exec_bitManip_odd hop hodd)

theorem State.endsInAddrError_movD_store {p : Fin 8} {dst : DwOperand} {w : WReg} (hdst : DwOperand.through dst w)
    (hbad : s.dwBad dst s.dswpag = true) : s.endsInAddrError (.movD (.pair p) dst) :=
  State.endsInAddrError_of_finish (State.Underway.fresh s).draw.draw.execFlags (exec_movD_store_bad hdst hbad)

/-! ### Reads -/

theorem State.endsInAddrError_load {size : Size} {disp : Word} {r : WReg} (hbad : s.badAccess size (s.w15 + disp) = true) :
    s.endsInAddrError (.w15Access (.load size disp r)) := by
  have hbad' : s.fresh.badAccess size (s.fresh.stackEa disp) = true := hbad
  refine State.endsInAddrError_of_finishStack (x := (s.fresh.writeW r (Config.freeWord s.free)).draw)
    (k := s.pastLimit (s.w15 + disp) || s.stackCarry disp) (State.Underway.fresh s).writeW.draw ?_
  change execW15Access (.load size disp r) s = _
  simp only [execW15Access, State.stackLoad, State.stackCheck_detected, State.detected_badAccess, hbad', if_true,
    State.raiseHard_addr, State.detected_detected, State.detected_writeW, State.detected_draw, State.detected_free,
    Bool.or_false, Bool.false_or]
  rfl

theorem State.endsInAddrError_pop {r : WReg} (hbad : s.badAccess .word (s.w15 - 2) = true) :
    s.endsInAddrError (.w15Access (.pop r)) := by
  have hpop : s.fresh.pop16 = (s.fresh.writeW 15 (s.w15 - 2)).draw.detected true (s.pastLimit (s.w15 - 2)) :=
    (State.pop16_detected s.fresh).trans (if_pos hbad)
  have hrun := exec_pop s r
  rw [hpop, State.detected_writeW] at hrun
  exact State.endsInAddrError_of_finishStack (State.Underway.fresh s).writeW.draw.writeW hrun

theorem State.endsInAddrError_movD_load {p : Fin 8} {src : DwOperand} {w : WReg} (hsrc : DwOperand.through src w)
    (hbad : s.dwBad src s.dsrpag = true) : s.endsInAddrError (.movD src (.pair p)) := by
  have hbad' : (s.fresh.dwBad src s.fresh.dsrpag || s.fresh.dwBad (.pair p) s.fresh.dswpag) = true := by
    rw [Bool.or_eq_true]
    refine .inl (Eq.trans ?_ hbad)
    rcases hsrc with rfl | rfl <;> rfl
  have hpair (x : State) : x.dwCheck (.pair p) = x := rfl
  have hinMemory : DwOperand.inMemory (.pair p) = false := rfl
  have hunused : DwOperand.usesW15 (.pair p) = false := rfl
  refine State.endsInAddrError_of_finish (used := w.val == 15) (k := s.pointerStk w true)
    (State.Underway.fresh s).draw.draw.execFlags.writeW.writeW (x :=
      (s.fresh.draw.draw.execFlags.writeW (pairLow p) (s.fresh.dwValue src).1).writeW (pairHigh p) (s.fresh.dwValue src).2) ?_
  change execMovD src (.pair p) s = _
  simp only [execMovD, hbad', hinMemory, hunused, hpair, Bool.and_false, Bool.false_eq_true, if_false, if_true,
    State.dwCheck_through hsrc, DwOperand.usesW15_through hsrc, State.raiseHard_addr, State.detected_detected,
    State.detected_draw, State.detected_execFlags, State.dwStore, State.detected_writeW, andThen_next, Bool.or_false,
    Bool.false_or]
  rfl

/-- A bit test through an even address of an operand that cannot be read, skipping or not (R53, R96). -/
theorem State.testSkip_bad_unsettled {want : Bool} {bit : Fin 16} {op : Operand} {w : WReg} (hop : Operand.through op w)
    (heven : (s.readW w).getLsbD 0 = false) (hbad : s.badRead .word op = true) :
    ∃ x k, s.testSkip want bit op = (x.detected true k).settle s.cpuIpl ∧ s.Underway x := by
  have heven' : s.fresh.oddIndirect op = false := (State.oddIndirect_through hop).trans heven
  have hbad' : s.fresh.badRead .word op = true := by
    refine Eq.trans ?_ hbad
    rcases hop with rfl | rfl <;> rfl
  have htested : s.Underway s.fresh.draw.execFlags := (State.Underway.fresh s).draw.execFlags
  simp only [State.testSkip, heven', hbad', Bool.false_eq_true, if_false, if_true, State.operandCheck_through hop,
    State.raiseHard_addr, State.detected_detected, State.detected_draw, State.detected_execFlags, State.detected_skipNext,
    State.detected_advance, State.underflowAfter_detected, Bool.or_false, Bool.false_or]
  split
  · exact ⟨_, _, by rw [State.detected_detected]; rfl, htested.skipNext⟩
  · exact ⟨_, _, by rw [State.detected_detected]; rfl, htested.setPc⟩

theorem State.endsInAddrError_bitTest {bit : Fin 16} {op : Operand} {w : WReg} (hop : Operand.through op w)
    (hi : i = .btsc bit op ∨ i = .btss bit op) (hbad : (s.readW w).getLsbD 0 = true ∨ s.badRead .word op = true) :
    s.endsInAddrError i := by
  cases hodd : (s.readW w).getLsbD 0
  · have hbad' := hbad.resolve_left (ne_of_eq_of_ne hodd Bool.false_ne_true)
    rcases hi with rfl | rfl
    · obtain ⟨x, k, hrun, hx⟩ := State.testSkip_bad_unsettled (want := false) (bit := bit) hop hodd hbad'
      exact ⟨x, k, congrArg Host.Outcome.next hrun, hx⟩
    · obtain ⟨x, k, hrun, hx⟩ := State.testSkip_bad_unsettled (want := true) (bit := bit) hop hodd hbad'
      exact ⟨x, k, congrArg Host.Outcome.next hrun, hx⟩
  · exact State.endsInAddrError_of_finish (State.Underway.fresh s) (exec_bitTest_odd hi hop hodd)

theorem State.endsInAddrError_macClass {acc : AccSel} {p q : WReg} {dsts : List WReg} (hdsp : s.dev.hasDsp = true)
    (hbad : (s.badX (s.readW p) || s.badY (s.readW q)) = true) : s.endsInAddrError (.macClass acc p q dsts) := by
  have hrun := exec_macClass_bad (acc := acc) (dsts := dsts) hdsp hbad
  rw [State.underflowAfter_detected, State.detected_detected, Bool.or_false] at hrun
  exact ⟨_, _, hrun, (State.Underway.fresh s).macResult.freeRegs.setPc⟩

/-! ### Calls, links and unlinks -/

theorem State.endsInAddrError_call {target : BitVec 23}
    (hbad : s.badAccess .word s.w15 = true ∨ s.badAccess .word (s.w15 + 2) = true) :
    s.endsInAddrError (.w15Access (.call target)) := by
  obtain ⟨lo, hi, b, hcall⟩ : ∃ lo hi b, exec (.w15Access (.call target)) s = andThen (s.fresh.draw.pushPair lo hi) fun t =>
      .next ((((t.setSfa b).setPc (target.zeroExtend 24)).underflowCheck).settle s.cpuIpl) := ⟨_, _, _, rfl⟩
  rw [State.pushPair_bad (s := s.fresh.draw) hbad, andThen_next, State.detected_setSfa, State.detected_setPc,
    State.underflowCheck_detected, State.detected_detected, Bool.or_false] at hcall
  exact ⟨_, _, hcall, (State.Underway.fresh s).draw.writeW.setSfa.setPc⟩

theorem State.endsInAddrError_link {lit14 : BitVec 14} (hbad : s.badAccess .word s.w15 = true) :
    s.endsInAddrError (.w15Access (.link lit14)) := by
  obtain ⟨b, hlink⟩ : ∃ b, exec (.w15Access (.link lit14)) s = andThen (s.fresh.draw.push16 (s.readW 14)) fun t =>
      .next (s.fresh.finishStack (((t.writeW 14 t.w15).writeW 15 (t.w15 + lit14.zeroExtend 16)).setSfa b)) := ⟨_, rfl⟩
  rw [State.push16_bad (s := s.fresh.draw) hbad, andThen_next, State.detected_w15, State.detected_writeW, State.detected_writeW,
    State.detected_setSfa] at hlink
  exact State.endsInAddrError_of_finishStack (State.Underway.fresh s).draw.writeW.writeW.writeW.setSfa hlink

theorem State.endsInAddrError_unlink (hbad : s.badAccess .word (s.readW 14 - 2) = true) :
    s.endsInAddrError (.w15Access .unlink) := by
  obtain ⟨v, b, hunlink⟩ : ∃ v b, exec (.w15Access .unlink) s =
      .next (s.fresh.finishStack ((((s.fresh.writeW 15 (s.readW 14)).pop16.writeW 14 v).draw).setSfa b)) := ⟨_, _, rfl⟩
  have hpop : (s.fresh.writeW 15 (s.readW 14)).pop16 =
      (s.fresh.writeW 15 (s.readW 14 - 2)).draw.detected true (s.pastLimit (s.readW 14 - 2)) :=
    (State.pop16_detected _).trans (if_pos hbad)
  rw [hpop, State.detected_writeW, State.detected_draw, State.detected_setSfa] at hunlink
  exact State.endsInAddrError_of_finishStack (State.Underway.fresh s).writeW.draw.writeW.draw.setSfa hunlink

/-! ### Every form -/

theorem State.endsInAddrError_of_writesBadly (h : s.writesBadly i) : s.endsInAddrError i := by
  rcases h with ⟨size, bit, w, rfl, hbad⟩ | ⟨bit, w, hi, hodd⟩ | ⟨size, bit, w, rfl, hbad⟩ | ⟨p, w, rfl, hbad⟩ |
    ⟨p, w, rfl, hbad⟩ | ⟨size, disp, r, rfl, hbad⟩ | ⟨r, rfl, hbad⟩
  · exact State.endsInAddrError_bitManip (Operand.through_indirect w) (hbad.imp_right fun hb => .inl ⟨rfl, hb⟩)
  · rcases hi with hi | hi | hi | hi
    · exact State.endsInAddrError_bitTest (Operand.through_indirect w) (.inl hi) (.inl hodd)
    · exact State.endsInAddrError_bitTest (Operand.through_indirect w) (.inr hi) (.inl hodd)
    · exact State.endsInAddrError_bitTest (Operand.through_paged w) (.inl hi) (.inl hodd)
    · exact State.endsInAddrError_bitTest (Operand.through_paged w) (.inr hi) (.inl hodd)
  · exact State.endsInAddrError_bitManip (Operand.through_paged w) (hbad.imp_right fun hb => .inr ⟨rfl, hb⟩)
  · exact State.endsInAddrError_movD_store (DwOperand.through_indirect w) (Bool.or_eq_true_iff.mpr hbad)
  · exact State.endsInAddrError_movD_store (DwOperand.through_paged w) (by simpa [State.dwBad, or_comm] using hbad)
  · exact State.endsInAddrError_of_finishStack (State.Underway.fresh s) (exec_store_bad hbad)
  · exact State.endsInAddrError_of_finishStack (State.Underway.fresh s).writeW (exec_push (State.push16_bad hbad))

theorem State.endsInAddrError_of_readsBadly (h : s.readsBadly i) : s.endsInAddrError i := by
  rcases h with ⟨size, disp, r, rfl, hbad⟩ | ⟨r, rfl, hbad⟩ | ⟨w, p, rfl, hbad⟩ | ⟨w, p, rfl, hbad⟩ | ⟨bit, w, hi, hbad⟩ |
    ⟨bit, w, hi, hbad⟩ | ⟨acc, x, y, dsts, rfl, hdsp, hbad⟩
  · exact State.endsInAddrError_load hbad
  · exact State.endsInAddrError_pop hbad
  · exact State.endsInAddrError_movD_load (DwOperand.through_indirect w) (Bool.or_eq_true_iff.mpr hbad)
  · exact State.endsInAddrError_movD_load (DwOperand.through_paged w) (by simpa [State.dwBad, or_comm] using hbad)
  · exact State.endsInAddrError_bitTest (Operand.through_paged w) hi (hbad.imp_right fun hpage => by simp [State.badRead, hpage])
  · exact State.endsInAddrError_bitTest (Operand.through_indirect w) hi (.inr hbad)
  · exact State.endsInAddrError_macClass hdsp (by simpa [State.badX, State.badY, or_assoc] using hbad)

theorem State.endsInAddrError_of_framesBadly (h : s.framesBadly i) : s.endsInAddrError i := by
  rcases h with ⟨target, rfl, hbad⟩ | ⟨lit14, rfl, hbad⟩ | ⟨rfl, hbad⟩
  · exact State.endsInAddrError_call hbad
  · exact State.endsInAddrError_link hbad
  · exact State.endsInAddrError_unlink hbad

end

end Sys2Proof.Machine

namespace Sys2Proof.Proofs

open Sys2Proof Sys2Proof.Machine

/-- Settles O47: every bad access ends in an address error, and a write that sets SWTRAP or SGHT in a generic hard trap. -/
theorem hardTrapConflictResets : Obligations.HardTrapConflictResets := by
  rintro s i (⟨hnot, hbad⟩ | ⟨hhigher, ⟨mask, value, rfl, hm, hv, hold, hkeep⟩ | ⟨mask, value, rfl, hm, hv, hold⟩⟩)
  · refine State.conflictReset_of_endsInAddrError ?_ hnot
    rcases hbad with hwrite | hread | hframe
    · exact State.endsInAddrError_of_writesBadly hwrite
    · exact State.endsInAddrError_of_readsBadly hread
    · exact State.endsInAddrError_of_framesBadly hframe
  · have hrises := (s.swtrapRises_iff mask value).mpr ⟨hm, hv, hold⟩
    have hconflict := (State.hardConflict_writeIntcon2 s mask value).mpr ⟨hrises, hhigher⟩
    have hwrite : s.fresh.writeSfr .intcon2 mask value = .next (s.fresh.writeIntcon2 mask value) :=
      if_neg fun h => bne_iff_ne.mp (Bool.and_eq_true_iff.mp h).2 (hkeep (Bool.and_eq_true_iff.mp h).1)
    refine ⟨_, exec_sfrWrite_conflict hwrite (State.logged_writeIntcon2 ..) hconflict, ?_⟩
    rw [State.fresh_writeIntcon2_eq]
    exact State.conflictReset_deviceReset ⟨rfl, rfl, rfl⟩ rfl rfl
  · have hconflict := (State.hardConflict_writeIntcon4 s mask value).mpr ⟨⟨hm, hv, hold⟩, hhigher⟩
    exact ⟨_, exec_sfrWrite_conflict rfl (State.logged_writeIntcon4 ..) hconflict,
      State.conflictReset_deviceReset ⟨rfl, rfl, rfl⟩ rfl rfl⟩

end Sys2Proof.Proofs
end

section
/-! SUPPORT. What each event of the environment does (R103, R130, R140 to R146, R152, R181), and the statement about them (O55). -/

namespace Sys2Proof.Machine

open Sys2Proof

section
variable {s u : State}

/-! ### Lists of events -/

theorem State.events_eq_foldl (es : List EnvEvent) (s : State) : s.events es = es.foldl (fun u e => u.event e) s := by
  induction es generalizing s with
  | nil => rfl
  | cons e es ih => exact ih (s.event e)

/-! ### Sources and pins -/

/-- A source that the device lacks sets no flag (R24). -/
theorem State.setIfs_unimplemented {n : Nat} (h : s.implemented n = false) : s.setIfs n = s :=
  if_neg (ne_of_eq_of_ne h Bool.false_ne_true)

/-- Pin `k` goes to `level` with the edge that its polarity bit selects (R152). -/
def State.edgeSelected (k : Fin 5) (level : Bool) (s : State) : Bool :=
  s.pins[k.val] != level && (level != s.intcon2.getLsbD k.val)

theorem State.edgeSelected_iff {k : Fin 5} {level : Bool} : s.edgeSelected k level = true ↔
    s.pins[k] ≠ level ∧ ((level = true ∧ s.intcon2.getLsbD k.val = false) ∨ (level = false ∧ s.intcon2.getLsbD k.val = true)) := by
  rw [State.edgeSelected, Bool.and_eq_true, bne_iff_ne]
  refine and_congr Iff.rfl ?_
  cases level <;> cases s.intcon2.getLsbD k.val <;> simp

/-- Pin `k` has level `level`, nothing else done. -/
def State.sampled (k : Fin 5) (level : Bool) (s : State) : State := { s with pins := s.pins.set k.val level }

theorem State.pinEdge_unselected {k : Fin 5} {level : Bool} (h : s.edgeSelected k level = false) :
    s.pinEdge k level = s.sampled k level := if_neg (ne_of_eq_of_ne h Bool.false_ne_true)

theorem State.pinEdge_selected {k : Fin 5} {level : Bool} (h : s.edgeSelected k level = true) :
    s.pinEdge k level = match s.dev.extIrq[k.val]? with
      | some n => (s.sampled k level).setIfs n
      | none => s.sampled k level := if_pos h

/-- A pin sets the flag of its own source at most. -/
theorem State.pinEdge_cases (k : Fin 5) (level : Bool) (s : State) :
    s.pinEdge k level = s.sampled k level ∨ ∃ n, s.pinEdge k level = (s.sampled k level).setIfs n := by
  cases h : s.edgeSelected k level
  · exact .inl (State.pinEdge_unselected h)
  · rw [State.pinEdge_selected h]
    cases s.dev.extIrq[k.val]? with
    | none => exact .inl rfl
    | some n => exact .inr ⟨n, rfl⟩

theorem State.pinEdge_frame (k : Fin 5) (level : Bool) (s : State) :
    s.pinEdge k level = { s with ifs := (s.pinEdge k level).ifs, pins := (s.pinEdge k level).pins } := by
  rcases s.pinEdge_cases k level with h | ⟨n, h⟩
  · rw [h]
    rfl
  · rw [h, State.setIfs_frame]
    rfl

theorem State.pinEdge_pin (k : Fin 5) (level : Bool) (s : State) : (s.pinEdge k level).pins[k] = level := by
  rcases s.pinEdge_cases k level with h | ⟨n, h⟩ <;> simp [h, State.sampled]

theorem State.ifsBit_pinEdge {k : Fin 5} {level : Bool} {n : Nat} (hn : s.dev.extIrq[k.val]? = some n)
    (himpl : s.implemented n = true) (m : Nat) :
    (s.pinEdge k level).ifsBit m = (s.ifsBit m || (decide (m = n) && s.edgeSelected k level)) := by
  cases h : s.edgeSelected k level
  · rw [State.pinEdge_unselected h, Bool.and_false, Bool.or_false]
    rfl
  · have himpl' : (s.sampled k level).implemented n = true := himpl
    rw [State.pinEdge_selected h, hn, Bool.and_true, Bool.or_comm]
    dsimp only
    rw [State.ifsBit_setIfs, himpl', Bool.and_true]
    rfl

/-! ### Bus agents -/

theorem State.agentWrite_register {a : Word} {v : Byte} {flag : Word} (h : s.dev.sfrAt a ≠ none) : s.agentWrite a v flag = s :=
  if_pos (Option.isSome_iff_ne_none.mpr h)

theorem State.agentWrite_memory {a : Word} {v : Byte} {flag : Word} (h : s.dev.sfrAt a = none) : s.agentWrite a v flag =
    if s.dev.dataAt a.toNat then s.setRamByte a v else s.orIntcon3 flag :=
  if_neg (by rw [h]; exact Bool.false_ne_true)

/-! ### The oscillator failure -/

/-- An oscillator failure that conflicts resets the device (R127). -/
theorem State.event_oscFail_conflict (h : (s.raiseHard .osc).reassert.hardConflict s.cpuIpl = true) :
    s.event .oscFail = (s.raiseHard .osc).deviceReset .trapConflict := if_pos h

/-! ### The script and the program -/

/-- No event touches the script (R103). -/
theorem State.event_env (s : State) (e : EnvEvent) : (s.event e).env = s.env := by
  have hunit {unit : Bool} {t : State} (ht : t.env = s.env) : (if unit then t else s).env = s.env := by
    cases unit
    · rfl
    · exact ht
  have hagent (a : Word) (v : Byte) (flag : Word) : (s.agentWrite a v flag).env = s.env := by
    unfold State.agentWrite
    split
    · rfl
    · split <;> rfl
  cases e with
  | irq n => exact State.setIfs_env n s
  | oscFail =>
    change (if _ then _ else _ : State).env = _
    split <;> rfl
  | dmaWrite a v => exact hunit (hagent ..)
  | usbWrite a v => exact hunit (hagent ..)
  | pin k level =>
    change (s.pinEdge k level).env = s.env
    rw [State.pinEdge_frame]
  | deviceReset => rfl
  | dmaCollision | dmaAddrError | usbAddrError | nvmAddrError | usbPllUnlock | apllUnlock => exact hunit rfl

/-! ### Requests -/

/-- Every interrupt request and every trap request of `s` stands in `u`: bits of INTCON1, INTCON3 and INTCON4 were set at most. -/
structure State.Requested (s u : State) : Prop where
  irqs : ∀ n, s.ifsBit n = true → u.ifsBit n = true
  intcon1 : ∃ m, u.intcon1 = s.intcon1 ||| m
  intcon3 : ∃ m, u.intcon3 = s.intcon3 ||| m
  intcon4 : ∃ m, u.intcon4 = s.intcon4 ||| m

theorem or_ne_zero {v m : Word} (h : v ≠ 0) : v ||| m ≠ 0 := fun h0 => h (BitVec.or_eq_zero_iff.mp h0).1

theorem State.Requested.traps (h : s.Requested u) {t : Trap} (ht : s.trapRequest t = true) : u.trapRequest t = true := by
  obtain ⟨-, ⟨m1, h1⟩, ⟨m3, h3⟩, ⟨m4, h4⟩⟩ := h
  have hbit (i : Nat) (hi : s.intcon1.getLsbD i = true) : u.intcon1.getLsbD i = true := by
    rw [h1, BitVec.getLsbD_or, hi, Bool.true_or]
  cases t with
  | genericHard =>
    have hne := or_ne_zero (m := m4) (bne_iff_ne.mp ht)
    exact bne_iff_ne.mpr (h4 ▸ hne)
  | genericSoft =>
    have hne := or_ne_zero (m := m3) (bne_iff_ne.mp ht)
    exact bne_iff_ne.mpr (h3 ▸ hne)
  | oscillator | address | stack | math | dmac => exact hbit _ ht

theorem State.requested_refl (s : State) : s.Requested s := ⟨fun _ h => h, ⟨0, by simp⟩, ⟨0, by simp⟩, ⟨0, by simp⟩⟩

theorem State.requested_orIntcon1 (s : State) (m : Word) : s.Requested (s.orIntcon1 m) :=
  ⟨fun _ h => h, ⟨m, rfl⟩, ⟨0, BitVec.or_zero.symm⟩, ⟨0, BitVec.or_zero.symm⟩⟩

theorem State.requested_orIntcon3 (s : State) (m : Word) : s.Requested (s.orIntcon3 m) :=
  ⟨fun _ h => h, ⟨0, BitVec.or_zero.symm⟩, ⟨m, rfl⟩, ⟨0, BitVec.or_zero.symm⟩⟩

theorem State.Requested.setIfs (h : s.Requested u) (n : Nat) : s.Requested (u.setIfs n) := by
  obtain ⟨hirqs, h1, h3, h4⟩ := h
  refine ⟨fun m hm => ?_, ?_, ?_, ?_⟩
  · rw [State.ifsBit_setIfs, hirqs m hm, Bool.or_true]
  · rwa [State.setIfs_intcon1]
  · rwa [State.setIfs_intcon3]
  · rwa [State.setIfs_intcon4]

/-- The failure of the oscillator sets flags and clears none (R130, R147). -/
theorem State.requested_oscFail (s : State) : s.Requested (s.raiseHard .osc).reassert :=
  ⟨fun _ h => h, ⟨0x0002 ||| (s.raiseHard .osc).log.intcon1Bits, BitVec.or_assoc ..⟩, ⟨0, BitVec.or_zero.symm⟩, ⟨_, rfl⟩⟩

theorem State.requested_agentWrite (a : Word) (v : Byte) (flag : Word) (s : State) : s.Requested (s.agentWrite a v flag) := by
  unfold State.agentWrite
  split
  · exact s.requested_refl
  · split
    · exact ⟨fun _ h => h, ⟨0, BitVec.or_zero.symm⟩, ⟨0, BitVec.or_zero.symm⟩, ⟨0, BitVec.or_zero.symm⟩⟩
    · exact s.requested_orIntcon3 flag

theorem State.requested_pinEdge (k : Fin 5) (level : Bool) (s : State) : s.Requested (s.pinEdge k level) := by
  have hsampled : s.Requested (s.sampled k level) :=
    ⟨fun _ h => h, ⟨0, BitVec.or_zero.symm⟩, ⟨0, BitVec.or_zero.symm⟩, ⟨0, BitVec.or_zero.symm⟩⟩
  rcases s.pinEdge_cases k level with h | ⟨n, h⟩
  · exact h ▸ hsampled
  · exact h ▸ hsampled.setIfs n

/-- No event but a reset withdraws a request (R102, R103, R121). -/
theorem State.requested_event {e : EnvEvent} (hreset : e ≠ .deviceReset)
    (hosc : e = .oscFail → s.event .oscFail = (s.raiseHard .osc).reassert) : s.Requested (s.event e) := by
  have hunit {unit : Bool} {t : State} (ht : s.Requested t) : s.Requested (if unit then t else s) := by
    cases unit
    · exact s.requested_refl
    · exact ht
  cases e with
  | irq n => exact s.requested_refl.setIfs n
  | oscFail => exact (hosc rfl) ▸ s.requested_oscFail
  | dmaCollision => exact hunit (s.requested_orIntcon1 _)
  | dmaWrite a v => exact hunit (s.requested_agentWrite ..)
  | usbWrite a v => exact hunit (s.requested_agentWrite ..)
  | pin k level => exact s.requested_pinEdge k level
  | deviceReset => exact absurd rfl hreset
  | dmaAddrError | usbAddrError | nvmAddrError | usbPllUnlock | apllUnlock => exact hunit (s.requested_orIntcon3 _)

end

end Sys2Proof.Machine

namespace Sys2Proof.Proofs

open Sys2Proof Sys2Proof.Machine

section
variable {s : State}

/-- The part of O55 on a step's list of events. -/
theorem environmentScript (s : State) :
    s.environment = { (s.env.headD []).foldl (fun u e => u.event e) { s with env := s.env.tail } with log := {} } ∧
    (∃ t, s.environment = t ∧ t.env = s.env.tail ∧ t.log = {} ∧ s.sameProgram t) := by
  constructor
  · rw [← State.events_eq_foldl]
    rfl
  · have henv := State.events_keeps (P := fun t => t.env = s.env.tail) (fun t e ht => (t.event_env e).trans ht) (s.env.headD [])
      { s with env := s.env.tail } rfl
    exact ⟨_, rfl, henv, rfl, (State.Steadily.environment (State.Steady.refl s)).program⟩

/-- The part of O55 on an oscillator failure without a conflict. -/
theorem oscFailResult (h : ¬(s.cpuIpl = 15 ∨ s.log.addr = true ∨ s.log.gen = true)) :
    ∃ t, s.event .oscFail = t ∧ stackFlag (s.intcon1 ||| 0x0002) t.intcon1 (s.log.stk = true) ∧
      t.clockFail = true ∧ t.log = { s.log with osc := true } ∧
      (∀ i, i ≠ s.dev.cfBit.val → t.osccon.getLsbD i = s.osccon.getLsbD i) ∧
      t = { s with intcon1 := t.intcon1, osccon := t.osccon, log := t.log } := by
  have hevent := State.event_oscFail_calm h
  simp only [not_or, Bool.not_eq_true] at h
  obtain ⟨-, haddr, hgen⟩ := h
  refine ⟨_, hevent, ?_, ?_, rfl, fun i hi => ?_, ?_⟩
  · have hbits : ({ s.log with osc := true } : StepLog).intcon1Bits = 0x0002 ||| (if s.log.stk then 0x0004 else 0) := by
      simp [StepLog.intcon1Bits, haddr]
    have hflags : (s.raiseHard .osc).reassert.intcon1 = s.intcon1 ||| 0x0002 ||| (if s.log.stk then 0x0004 else 0) := by
      change s.intcon1 ||| 0x0002 ||| ({ s.log with osc := true } : StepLog).intcon1Bits = _
      rw [hbits, ← BitVec.or_assoc, BitVec.or_assoc s.intcon1 0x0002 0x0002, BitVec.or_self]
    rw [hflags]
    cases s.log.stk <;> simp [stackFlag]
  · exact (getLsbD_setBit ..).trans (by simp [State.reassert])
  · exact (getLsbD_setBit ..).trans (if_neg fun h => hi h.1)
  · have hsame : (s.raiseHard .osc).reassert.intcon4 = s.intcon4 := by simp [State.reassert, State.raiseHard, hgen]
    rw [State.reassert_frame, hsame]
    rfl

/-- The part of O55 on the writes of a bus agent. -/
theorem agentWriteResult {has : Bool} {flag : Word} {a : Word} {v : Byte} {u : State}
    (hu : u = if has then s.agentWrite a v flag else s) :
    (has = false ∨ s.dev.sfrAt a ≠ none → u = s) ∧
    (has = true → s.dev.sfrAt a = none →
      (s.dev.dataAt a.toNat = false → u = { s with intcon3 := s.intcon3 ||| flag }) ∧
      (s.dev.dataAt a.toNat = true → u = { s with ram := u.ram } ∧ ∀ b, u.ramByte b = if b = a then v else s.ramByte b)) := by
  cases has
  · exact ⟨fun _ => hu, nofun⟩
  · rw [if_pos rfl] at hu
    subst hu
    refine ⟨fun h => State.agentWrite_register (h.resolve_left nofun), fun _ hmem => ?_⟩
    rw [State.agentWrite_memory hmem]
    refine ⟨fun hno => ?_, fun hdata => ?_⟩
    · rw [hno]
      rfl
    · rw [hdata]
      exact ⟨rfl, fun b => State.ramByte_setRamByte ..⟩

end

/-- Settles O55. -/
theorem environmentEvents : Obligations.EnvironmentEvents := by
  intro s conflict hconflict
  obtain ⟨hlist, hscript⟩ := environmentScript s
  refine ⟨hlist, hscript, s.resetTo_deviceReset .other, fun n => State.setIfs_unimplemented,
    fun n m himpl => ⟨?_, State.setIfs_frame n s⟩, fun hno => oscFailResult (hconflict.not.mp hno), fun hc => ?_, ?_,
    rfl, rfl, rfl, rfl, rfl, rfl, fun k level n m hn himpl => ⟨?_, s.pinEdge_pin k level⟩, fun k level => s.pinEdge_frame k level,
    fun e hreset hosc => ?_⟩
  · exact (State.ifsBit_setIfs s n m).trans (by rw [himpl, Bool.and_true, Bool.or_comm])
  · rw [State.event_oscFail_conflict (State.hardConflict_oscFail.mpr (hconflict.mp hc))]
    exact State.conflictReset_deviceReset ⟨rfl, rfl, rfl⟩ rfl rfl
  · rintro e has flag (⟨rfl, rfl, rfl⟩ | ⟨rfl, rfl, rfl⟩) a v
    · exact agentWriteResult rfl
    · exact agentWriteResult rfl
  · refine (State.ifsBit_pinEdge hn himpl m).trans (congrArg (s.ifsBit m || ·) ?_)
    rw [Bool.eq_iff_iff, Bool.and_eq_true, decide_eq_true_eq, decide_eq_true_eq, State.edgeSelected_iff]
  · have hkept := State.requested_event hreset fun he => State.event_oscFail_calm (hconflict.not.mp (hosc he))
    exact ⟨hkept.irqs, fun t => hkept.traps⟩

end Sys2Proof.Proofs
end
